-- ==== Sys2Proof/Word.lean ====
section
/-!
DEFINITION. The four widths of the block's data (10_state.md R20, R21, R22, R31): plain bit vectors, nothing else.
The unused container bits of the source's software carriers do not exist here (92_eei_decisions.md D1; log entry 17).
-/

namespace Sys2Proof

/-- A Byte: 6 bits, 0 to 63 (R20). -/
abbrev Byte := BitVec 6

/-- A Word: sign bit 30, then bytes 1 to 5, byte 1 at bits 29..24 and byte 5 at bits 5..0 (R21). -/
abbrev Word := BitVec 31

/-- An Address: sign bit 12, byte 1 at bits 11..6, byte 2 at bits 5..0 (R22). -/
abbrev Address := BitVec 13

/-- The program counter: 12 bits, unsigned (R31; D10, log entry 16). -/
abbrev Pc := BitVec 12

end Sys2Proof
end

