-- ==== Sys2Proof/Syntax.lean ====
section
/-!
DEFINITION. The instructions, one constructor for each of the 64 rows of spec/opcode_table.json (30_encoding.md R76). There is
one format and one length (R70, R79), so every constructor carries the same three operand fields. The rows `OP5` to `OP63`
are the source's extension points: the table names them by opcode number, and so does the model.
-/

namespace Sys2Proof

/-- The operand fields of the one instruction format (R70): everything in the word but the opcode. -/
structure Fields where
  /-- S and AA: the base address `Addr(S, AA)` (R71). -/
  base  : Address
  /-- I: the index field, 0 to 63; 1 to 6 name I1 to I6 (R72). -/
  index : Byte
  /-- F: the field specification 8L + R, 0 to 63 (R73). -/
  field : Byte
deriving DecidableEq, Repr

/-- One constructor per row of the opcode table, named by its mnemonic (R76). -/
inductive Instr where
  -- No-op: opcode 0
  | nop (f : Fields)
  -- Arithmetic: opcodes 1 to 4
  | add (f : Fields)
  | sub (f : Fields)
  | mul (f : Fields)
  | div (f : Fields)
  -- Special: opcode 5
  | op5 (f : Fields)
  -- Shift: opcode 6
  | op6 (f : Fields)
  -- Move: opcode 7
  | op7 (f : Fields)
  -- Load: opcodes 8 to 23
  | op8 (f : Fields)
  | op9 (f : Fields)
  | op10 (f : Fields)
  | op11 (f : Fields)
  | op12 (f : Fields)
  | op13 (f : Fields)
  | op14 (f : Fields)
  | op15 (f : Fields)
  | op16 (f : Fields)
  | op17 (f : Fields)
  | op18 (f : Fields)
  | op19 (f : Fields)
  | op20 (f : Fields)
  | op21 (f : Fields)
  | op22 (f : Fields)
  | op23 (f : Fields)
  -- Store: opcodes 24 to 33
  | op24 (f : Fields)
  | op25 (f : Fields)
  | op26 (f : Fields)
  | op27 (f : Fields)
  | op28 (f : Fields)
  | op29 (f : Fields)
  | op30 (f : Fields)
  | op31 (f : Fields)
  | op32 (f : Fields)
  | op33 (f : Fields)
  -- I/O: opcodes 34 to 38
  | op34 (f : Fields)
  | op35 (f : Fields)
  | op36 (f : Fields)
  | op37 (f : Fields)
  | op38 (f : Fields)
  -- Jump: opcodes 39 to 47
  | op39 (f : Fields)
  | op40 (f : Fields)
  | op41 (f : Fields)
  | op42 (f : Fields)
  | op43 (f : Fields)
  | op44 (f : Fields)
  | op45 (f : Fields)
  | op46 (f : Fields)
  | op47 (f : Fields)
  -- Address transfer: opcodes 48 to 55
  | op48 (f : Fields)
  | op49 (f : Fields)
  | op50 (f : Fields)
  | op51 (f : Fields)
  | op52 (f : Fields)
  | op53 (f : Fields)
  | op54 (f : Fields)
  | op55 (f : Fields)
  -- Compare: opcodes 56 to 63
  | op56 (f : Fields)
  | op57 (f : Fields)
  | op58 (f : Fields)
  | op59 (f : Fields)
  | op60 (f : Fields)
  | op61 (f : Fields)
  | op62 (f : Fields)
  | op63 (f : Fields)
deriving DecidableEq, Repr

end Sys2Proof
end

