-- ==== Sys2Proof/Decode.lean ====
section
/-!
DEFINITION. The decoder and, after it, the encoder (30_encoding.md R70 to R79; 41_decode_ea.md R140, R148). A word decodes by
its opcode field alone, and every 31-bit word decodes. What is rejected is rejected by name: an opcode above 63 (R148, which
no word reaches) and a number that is no 31-bit word (bit 31 or higher set: R21, R70).
-/

namespace Sys2Proof

/-- Why a decoder gives no instruction. -/
inductive Rejection where
  /-- R148: an opcode outside 0 to 63. No word has one. -/
  | badOpcode (opcode : Nat)
  /-- R21, R70: a carrier with bit 31 or a higher bit set is no Word (log entry 17). -/
  | notAWord (carrier : Nat)
deriving DecidableEq, Repr

/-! ## Decoding -/

/-- C, bits 5..0 (R70, R74). -/
def opcodeOf (w : Word) : Nat := (w.extractLsb' 0 6).toNat

/-- S, AA, I and F (R70, R140): the base address is bits 30..18, its sign the word's own sign bit
(R71; D4, log entry 11). -/
def fieldsOf (w : Word) : Fields where
  base  := w.extractLsb' 18 13
  index := w.extractLsb' 12 6
  field := w.extractLsb' 6 6

/-- The opcode map (R76): which instruction an opcode number names. -/
def instrOf (opcode : Nat) (f : Fields) : Except Rejection Instr :=
  match opcode with
  | 0 => .ok (.nop f)
  | 1 => .ok (.add f)
  | 2 => .ok (.sub f)
  | 3 => .ok (.mul f)
  | 4 => .ok (.div f)
  | 5 => .ok (.op5 f)
  | 6 => .ok (.op6 f)
  | 7 => .ok (.op7 f)
  | 8 => .ok (.op8 f)
  | 9 => .ok (.op9 f)
  | 10 => .ok (.op10 f)
  | 11 => .ok (.op11 f)
  | 12 => .ok (.op12 f)
  | 13 => .ok (.op13 f)
  | 14 => .ok (.op14 f)
  | 15 => .ok (.op15 f)
  | 16 => .ok (.op16 f)
  | 17 => .ok (.op17 f)
  | 18 => .ok (.op18 f)
  | 19 => .ok (.op19 f)
  | 20 => .ok (.op20 f)
  | 21 => .ok (.op21 f)
  | 22 => .ok (.op22 f)
  | 23 => .ok (.op23 f)
  | 24 => .ok (.op24 f)
  | 25 => .ok (.op25 f)
  | 26 => .ok (.op26 f)
  | 27 => .ok (.op27 f)
  | 28 => .ok (.op28 f)
  | 29 => .ok (.op29 f)
  | 30 => .ok (.op30 f)
  | 31 => .ok (.op31 f)
  | 32 => .ok (.op32 f)
  | 33 => .ok (.op33 f)
  | 34 => .ok (.op34 f)
  | 35 => .ok (.op35 f)
  | 36 => .ok (.op36 f)
  | 37 => .ok (.op37 f)
  | 38 => .ok (.op38 f)
  | 39 => .ok (.op39 f)
  | 40 => .ok (.op40 f)
  | 41 => .ok (.op41 f)
  | 42 => .ok (.op42 f)
  | 43 => .ok (.op43 f)
  | 44 => .ok (.op44 f)
  | 45 => .ok (.op45 f)
  | 46 => .ok (.op46 f)
  | 47 => .ok (.op47 f)
  | 48 => .ok (.op48 f)
  | 49 => .ok (.op49 f)
  | 50 => .ok (.op50 f)
  | 51 => .ok (.op51 f)
  | 52 => .ok (.op52 f)
  | 53 => .ok (.op53 f)
  | 54 => .ok (.op54 f)
  | 55 => .ok (.op55 f)
  | 56 => .ok (.op56 f)
  | 57 => .ok (.op57 f)
  | 58 => .ok (.op58 f)
  | 59 => .ok (.op59 f)
  | 60 => .ok (.op60 f)
  | 61 => .ok (.op61 f)
  | 62 => .ok (.op62 f)
  | 63 => .ok (.op63 f)
  | c => .error (.badOpcode c)

/-- The instruction a word is (R77, R140). -/
def decode (w : Word) : Except Rejection Instr := instrOf (opcodeOf w) (fieldsOf w)

/-- The instruction a number is, read as a 32-bit or wider carrier of a Word: the bits above 30 must be 0 (R70). -/
def decodeCarrier (n : Nat) : Except Rejection Instr :=
  if n < 2 ^ 31 then decode (BitVec.ofNat 31 n) else .error (.notAWord n)

/-- The instruction the decoder reads from the low `nbits` bits of `w`, every higher bit 0. An instruction is one Word, so
the table's numbering and the Word's are the same (R5, R70). -/
def decodeTableWord (nbits w : Nat) : Option Instr :=
  match decodeCarrier (w % 2 ^ nbits) with
  | .ok i => some i
  | .error _ => none

/-! ## Encoding -/

/-- The opcode of an instruction (R76). -/
def Instr.opcode : Instr → Nat
  | .nop _ => 0
  | .add _ => 1
  | .sub _ => 2
  | .mul _ => 3
  | .div _ => 4
  | .op5 _ => 5
  | .op6 _ => 6
  | .op7 _ => 7
  | .op8 _ => 8
  | .op9 _ => 9
  | .op10 _ => 10
  | .op11 _ => 11
  | .op12 _ => 12
  | .op13 _ => 13
  | .op14 _ => 14
  | .op15 _ => 15
  | .op16 _ => 16
  | .op17 _ => 17
  | .op18 _ => 18
  | .op19 _ => 19
  | .op20 _ => 20
  | .op21 _ => 21
  | .op22 _ => 22
  | .op23 _ => 23
  | .op24 _ => 24
  | .op25 _ => 25
  | .op26 _ => 26
  | .op27 _ => 27
  | .op28 _ => 28
  | .op29 _ => 29
  | .op30 _ => 30
  | .op31 _ => 31
  | .op32 _ => 32
  | .op33 _ => 33
  | .op34 _ => 34
  | .op35 _ => 35
  | .op36 _ => 36
  | .op37 _ => 37
  | .op38 _ => 38
  | .op39 _ => 39
  | .op40 _ => 40
  | .op41 _ => 41
  | .op42 _ => 42
  | .op43 _ => 43
  | .op44 _ => 44
  | .op45 _ => 45
  | .op46 _ => 46
  | .op47 _ => 47
  | .op48 _ => 48
  | .op49 _ => 49
  | .op50 _ => 50
  | .op51 _ => 51
  | .op52 _ => 52
  | .op53 _ => 53
  | .op54 _ => 54
  | .op55 _ => 55
  | .op56 _ => 56
  | .op57 _ => 57
  | .op58 _ => 58
  | .op59 _ => 59
  | .op60 _ => 60
  | .op61 _ => 61
  | .op62 _ => 62
  | .op63 _ => 63

/-- The operand fields of an instruction (R70). -/
def Instr.fields : Instr → Fields
  | .nop f => f
  | .add f => f
  | .sub f => f
  | .mul f => f
  | .div f => f
  | .op5 f => f
  | .op6 f => f
  | .op7 f => f
  | .op8 f => f
  | .op9 f => f
  | .op10 f => f
  | .op11 f => f
  | .op12 f => f
  | .op13 f => f
  | .op14 f => f
  | .op15 f => f
  | .op16 f => f
  | .op17 f => f
  | .op18 f => f
  | .op19 f => f
  | .op20 f => f
  | .op21 f => f
  | .op22 f => f
  | .op23 f => f
  | .op24 f => f
  | .op25 f => f
  | .op26 f => f
  | .op27 f => f
  | .op28 f => f
  | .op29 f => f
  | .op30 f => f
  | .op31 f => f
  | .op32 f => f
  | .op33 f => f
  | .op34 f => f
  | .op35 f => f
  | .op36 f => f
  | .op37 f => f
  | .op38 f => f
  | .op39 f => f
  | .op40 f => f
  | .op41 f => f
  | .op42 f => f
  | .op43 f => f
  | .op44 f => f
  | .op45 f => f
  | .op46 f => f
  | .op47 f => f
  | .op48 f => f
  | .op49 f => f
  | .op50 f => f
  | .op51 f => f
  | .op52 f => f
  | .op53 f => f
  | .op54 f => f
  | .op55 f => f
  | .op56 f => f
  | .op57 f => f
  | .op58 f => f
  | .op59 f => f
  | .op60 f => f
  | .op61 f => f
  | .op62 f => f
  | .op63 f => f

/-- The word with the given fields and opcode: `S AA I F C`, high bit first (R70). -/
def packWord (f : Fields) (opcode : Nat) : Word :=
  f.base ++ f.index ++ f.field ++ BitVec.ofNat 6 opcode

/-- The word an instruction is written as (R70, R76). -/
def encode (i : Instr) : Word := packWord i.fields i.opcode

end Sys2Proof
end

