-- ==== Sys2Proof/Config.lean ====
section
/-!
DEFINITION. What the spec leaves to an implementation (00_scope.md R4): the parameter FIELD_ALIGN with its default, and the
two free draws of a divide fault. The other parameters of R4 are fixed numbers and stand in the types and rules that use them.
-/

namespace Sys2Proof

/-- FIELD_ALIGN (R4, 90_conflicts.md C4, 92_eei_decisions.md D2): how a selected field is left-justified. -/
inductive FieldAlign where
  /-- The selected bytes land on the byte grid from byte 1 (R110). -/
  | byte
  /-- The selected bits land at the very top of the 31-bit word (R111). -/
  | bit
deriving DecidableEq, Repr

/-- The spec's default reading of FIELD_ALIGN (R4, D2). DESIGN CHOICE of the spec, log entry 2: unsafe. -/
def Config.fieldAlignDefault : FieldAlign := .byte

/-- DIV_UNDEF_A: the word A takes after a divide fault (R175), any Word by no law. The argument is the number of
draws taken so far, so that each divide fault has a fresh one. Free value: log entry 3. -/
opaque Config.divUndefA : Nat → Word

/-- DIV_UNDEF_X: the word X takes after a divide fault (R175). Free value: log entry 3. -/
opaque Config.divUndefX : Nat → Word

end Sys2Proof
end

