-- ==== Sys2Proof/Machine/Numeric.lean ====
section
/-!
DEFINITION. The numeric unit (40_numeric.md): pack and unpack of signed-magnitude Addresses, Words and Double-words, the
byte-range extractor and the field applier. Pure functions, no state (R36). Integers are exact (R6).
-/

namespace Sys2Proof.Machine

/-! ## Signed magnitude -/

/-- The integer with the given sign (true is −) and magnitude. -/
def signed (negative : Bool) (m : Nat) : Int := if negative then -(m : Int) else (m : Int)

/-- `sign(w)` of a Word, bit 30; true is − (R7, R21). -/
def wordSign (w : Word) : Bool := w.getLsbD 30

/-- `mag(w)` of a Word, bits 29..0 (R7, R21). -/
def wordMag (w : Word) : Nat := (w.extractLsb' 0 30).toNat

/-- `Word(s, m)`; only the low 30 bits of `m` are kept (R7). -/
def mkWord (s : Bool) (m : Nat) : Word := BitVec.ofBool s ++ BitVec.ofNat 30 m

/-- `byte(w, i)`, 1 ≤ i ≤ 5: bits 35−6i .. 30−6i (R5). -/
def wordByte (w : Word) (i : Nat) : Byte := w.extractLsb' (30 - 6 * i) 6

/-- The Word written `± b1 b2 b3 b4 b5` (R8, R21). -/
def wordOfBytes (s : Bool) (b1 b2 b3 b4 b5 : Byte) : Word := BitVec.ofBool s ++ b1 ++ b2 ++ b3 ++ b4 ++ b5

/-- `sign(a)` of an Address, bit 12; true is − (R7, R22). -/
def addrSign (a : Address) : Bool := a.getLsbD 12

/-- `mag(a)` of an Address, bits 11..0 (R7, R22). -/
def addrMag (a : Address) : Nat := (a.extractLsb' 0 12).toNat

/-- `Addr(s, m)`; only the low 12 bits of `m` are kept (R7). -/
def mkAddr (s : Bool) (m : Nat) : Address := BitVec.ofBool s ++ BitVec.ofNat 12 m

/-! ## Conversions -/

/-- R100. -/
def decodeAddress (a : Address) : Int := signed (addrSign a) (addrMag a)

/-- R101: the magnitude is truncated to 12 bits, the sign of `v` kept; 0 gives +0 (D11, log entry 9). -/
def encodeAddress (v : Int) : Address := mkAddr (decide (v < 0)) (v.natAbs % 2 ^ 12)

/-- R102. -/
def decodeWord (w : Word) : Int := signed (wordSign w) (wordMag w)

/-- R103: the magnitude is truncated to 30 bits, the sign of `v` kept; 0 gives +0 (D11, log entry 9). -/
def encodeWord (v : Int) : Word := mkWord (decide (v < 0)) (v.natAbs % 2 ^ 30)

/-- R105: the sign of `hi` alone counts. -/
def decodeDoubleword (hi lo : Word) : Int := signed (wordSign hi) (wordMag hi * 2 ^ 30 + wordMag lo)

/-- R106: both words carry the sign of `v`, the magnitude is truncated to 60 bits. -/
def encodeDoubleword (v : Int) : Word × Word :=
  let m := v.natAbs % 2 ^ 60
  (mkWord (decide (v < 0)) (m / 2 ^ 30), mkWord (decide (v < 0)) (m % 2 ^ 30))

/-! ## Byte ranges and fields -/

/-- A byte range (from, to) of a word with the precondition of R108: 0 ≤ from ≤ to ≤ 5, byte 0 being the sign bit. An
invalid range cannot be built (R112). -/
structure ByteRange where
  first   : Nat
  last    : Nat
  ordered : first ≤ last
  bounded : last ≤ 5
deriving DecidableEq, Repr

/-- L = F div 8 (R73). -/
def fieldLeft (f : Byte) : Nat := f.toNat / 8

/-- R = F mod 8 (R73). -/
def fieldRight (f : Byte) : Nat := f.toNat % 8

/-- The byte range a field specification names, none where it is invalid: L > R or R > 5 (R73, R109). -/
def fieldRange (f : Byte) : Option ByteRange :=
  if h : fieldLeft f ≤ fieldRight f ∧ fieldRight f ≤ 5 then some ⟨fieldLeft f, fieldRight f, h.1, h.2⟩ else none

/-- F is a valid field specification (R73). -/
def fieldValid (f : Byte) : Bool := (fieldRange f).isSome

/-- `width(from, to)` of R108: the sign bit is one bit, every byte six. -/
def ByteRange.width (r : ByteRange) : Nat :=
  if r.first = 0 then 6 * r.last + 1 else 6 * (r.last - r.first + 1)

/-- R108: the bits of the range, right-aligned. -/
def extractBytes (w : Word) (r : ByteRange) : Nat :=
  (w.extractLsb' (30 - 6 * r.last) r.width).toNat

/-- The range (1, 5): the whole magnitude, the one DIV extracts (R108, R174). -/
def magnitudeBytes : ByteRange := ⟨1, 5, by decide, by decide⟩

/-- How far left `apply_field` moves the extracted bits under each reading of FIELD_ALIGN (R110, R111; D2, log entry 2). -/
def fieldShift (align : FieldAlign) (r : ByteRange) : Nat :=
  match align with
  | .byte => if r.first = 0 then 6 * (5 - r.last) else 6 * (5 - (r.last - r.first + 1))
  | .bit  => 31 - r.width

/-- R110 and R111: the selected bytes, left-justified, zeros below. -/
def applyField (align : FieldAlign) (w : Word) (r : ByteRange) : Word :=
  BitVec.ofNat 31 (extractBytes w r) <<< fieldShift align r

end Sys2Proof.Machine
end

