-- ==== Sys2Proof/Machine/State.lean ====
section
/-!
DEFINITION. The state of the block (10_state.md R24 to R33), the reasons a step can stop (60_exceptions.md R201; 00_scope.md
R9), and the state after reset (R38). Plain data. Two fields are the model's own and no state of the hardware: the parameter
FIELD_ALIGN (log entry 2) and the count of draws taken (log entry 3).
-/

namespace Sys2Proof.Machine

/-- The names of the six index registers (R26). There is no I0. -/
inductive IndexReg where
  | i1 | i2 | i3 | i4 | i5 | i6
deriving DecidableEq, Repr

/-- The three values of the comparison indicator CI (R30). It has no bit encoding (D23, log entry 20). -/
inductive Comparison where
  | less | equal | greater
deriving DecidableEq, Repr

/-- Which access a MemoryOutOfBounds fault reports (R201). -/
inductive Access where
  | fetch | operand
deriving DecidableEq, Repr

/-- Memory: the cells that differ from what an unlisted address reads as, as (address, Word) pairs, addresses strictly
rising. A cell is a whole Word, for an address names a Word and no byte is addressable (R33, R50; log entry 1). -/
abbrev Memory := List (Nat × Word)

/-- The state of one machine instance. -/
structure State where
  /-- A, the accumulator (R24). -/
  a : Word
  /-- X, the extension (R25). -/
  x : Word
  /-- I1 (R26). -/
  i1 : Address
  /-- I2 (R26). -/
  i2 : Address
  /-- I3 (R26). -/
  i3 : Address
  /-- I4 (R26). -/
  i4 : Address
  /-- I5 (R26). -/
  i5 : Address
  /-- I6 (R26). -/
  i6 : Address
  /-- J, the jump register; its sign bit is stored as written (R27). -/
  j : Address
  /-- OV, the sticky overflow flag (R29). -/
  ov : Bool
  /-- CI, the comparison indicator (R30). -/
  ci : Comparison
  /-- pc, the program counter (R31). -/
  pc : Pc
  /-- The halted bit (R32). -/
  halted : Bool
  /-- M, 4000 Words (R33). -/
  mem : Memory
  /-- MODEL'S OWN: the reading of FIELD_ALIGN this machine has (R4, D2; log entry 2). No step and no host write changes it. -/
  fieldAlign : FieldAlign
  /-- MODEL'S OWN: how many divide faults have drawn their undefined words (R175; log entry 3). -/
  draws : Nat
deriving DecidableEq, Repr

/-- What the arithmetic kernel reads and writes (R36): A, X and OV. -/
structure Alu where
  a  : Word
  x  : Word
  ov : Bool
deriving DecidableEq, Repr

/-- Why a step takes no effect and reports so to the host. Nothing is changed by any of them (R144, R205). -/
inductive Fault where
  /-- Code 1. The EA unit, every opcode with I in 1 to 6: the index sum t has |t| > 4095 (R141, R201). Safe. -/
  | addressOverflow (t : Int)
  /-- Code 2. Fetch with pc > 3999 (R52), or an operand read by ADD, SUB, MUL, DIV outside [0, 3999] (R53). Safe; that a
  negative address faults is D6 (log entry 13). -/
  | memoryOutOfBounds (address : Int) (access : Access)
  /-- Code 3. An opcode above 63: no word has one, so no step raises it (R148). Safe. -/
  | badOpcode (opcode : Nat)
  /-- Code 4. An operand read by ADD, SUB, MUL, DIV through an invalid field (R53; D3, log entry 18). Safe. -/
  | badFieldSpecification (field : Byte)
  /-- Code 5. The EA unit, every opcode: I in 7 to 63 (R141; D5, log entry 12). Safe. -/
  | badIndexField (index : Byte)
  /-- No kind of R201 but R9's fourth outcome, "no step": the halted bit is set and nothing happens (R143; D15, log
  entry 4). Raised by step alone. Safe. -/
  | noStepHalted
deriving DecidableEq, Repr

/-- Why the block gives an instruction no meaning. Nothing is changed (R144, R205). -/
inductive Refusal where
  /-- An instruction this model has no meaning for yet, by its table mnemonic. No arm of exec answers it. Safe. -/
  | notModelled (mnemonic : String)
  /-- Code 6, Refused(NotImplemented, C): dispatch, opcodes 5 to 63, the extension points the source leaves
  unimplemented (R147, R203; D7, log entry 8). Safe. -/
  | notImplemented (opcode : Nat)
deriving DecidableEq, Repr

/-- The state after reset (R38, R230). The values are the spec's own choice, its source giving none (D14, log
entry 5), unsafe. -/
def State.reset : State where
  a := 0
  x := 0
  i1 := 0
  i2 := 0
  i3 := 0
  i4 := 0
  i5 := 0
  i6 := 0
  j := 0
  ov := false
  ci := .equal
  pc := 0
  halted := false
  mem := []
  fieldAlign := Config.fieldAlignDefault
  draws := 0

end Sys2Proof.Machine
end

