-- ==== Sys2Proof/Machine/Ops.lean ====
section
/-!
DEFINITION. The named operations over memory and registers, and how a step ends: raising a fault, refusing an opcode, committing
(20_memory.md R50 to R58; 41_decode_ea.md R143, R144; 60_exceptions.md R201, R205, R206).
-/

namespace Sys2Proof.Machine

/-- The answer of an instruction or a step. -/
abbrev Answer := Host.Outcome State Fault Refusal

/-! ## Memory -/

/-- What an address with no listed cell reads as: +0, the reset contents of every memory word (R38; D14, log entry 5). -/
def Memory.unlisted : Word := 0

/-- `MemRead(a, 1)`: the Word at address `a`. Callers check 0 ≤ a ≤ 3999 first (R52, R53). -/
def Memory.read : Memory → Nat → Word
  | [], _ => Memory.unlisted
  | (b, v) :: m, a => if b = a then v else Memory.read m a

/-- The memory with one cell put in front of higher addresses, or not listed where it holds the unlisted value. -/
def Memory.consCell (a : Nat) (w : Word) (m : Memory) : Memory :=
  if w = Memory.unlisted then m else (a, w) :: m

/-- `MemWrite`: the Word at `a` becomes `w`, the canonical form kept. No instruction writes memory; the host does (R58). -/
def Memory.write : Memory → Nat → Word → Memory
  | [], a, w => Memory.consCell a w []
  | (b, v) :: m, a, w =>
    if a < b then Memory.consCell a w ((b, v) :: m)
    else if a = b then Memory.consCell a w m
    else (b, v) :: Memory.write m a w

/-- The cells are in canonical form from address `lo` on. -/
def Memory.wfFrom : Nat → Memory → Bool
  | _, [] => true
  | lo, (b, v) :: m => decide (lo ≤ b) && decide (b < 4000) && decide (v ≠ Memory.unlisted) && Memory.wfFrom (b + 1) m

/-- The canonical form: addresses strictly rising, all in [0, 3999] (R33), no cell holding the unlisted value. -/
def Memory.wf (m : Memory) : Bool := Memory.wfFrom 0 m

/-! ## Registers -/

/-- Read an index register (R26). -/
def State.index (s : State) : IndexReg → Address
  | .i1 => s.i1
  | .i2 => s.i2
  | .i3 => s.i3
  | .i4 => s.i4
  | .i5 => s.i5
  | .i6 => s.i6

/-- Write an index register; only the host does (R26). -/
def State.withIndex (s : State) (r : IndexReg) (v : Address) : State :=
  match r with
  | .i1 => { s with i1 := v }
  | .i2 => { s with i2 := v }
  | .i3 => { s with i3 := v }
  | .i4 => { s with i4 := v }
  | .i5 => { s with i5 := v }
  | .i6 => { s with i6 := v }

/-- J read as a number: always +mag(J), whatever its stored sign bit (R27; D24, log entry 19). -/
def State.jumpNumber (s : State) : Nat := addrMag s.j

/-- The part of the state the arithmetic kernel reads (R36). -/
def State.alu (s : State) : Alu where
  a  := s.a
  x  := s.x
  ov := s.ov

/-- The state with the kernel's results written to A, X and OV (R24, R25, R29). -/
def State.withAlu (s : State) (r : Alu) : State := { s with a := r.a, x := r.x, ov := r.ov }

/-- One more draw is taken (R175; log entry 3). -/
def State.tookDraw (s : State) : State := { s with draws := s.draws + 1 }

def State.withPc (s : State) (v : Pc) : State := { s with pc := v }
def State.withMem (s : State) (m : Memory) : State := { s with mem := m }
def State.withHalted (s : State) (b : Bool) : State := { s with halted := b }
def State.withJ (s : State) (v : Address) : State := { s with j := v }
def State.withOv (s : State) (b : Bool) : State := { s with ov := b }
def State.withCi (s : State) (c : Comparison) : State := { s with ci := c }
def State.withA (s : State) (v : Word) : State := { s with a := v }
def State.withX (s : State) (v : Word) : State := { s with x := v }

/-! ## How a step ends -/

/-- Fault entry, the one there is (R201, R205): the host receives the fault; nothing is saved, no mode or mask changes, control
goes nowhere, every element keeps its value. There is no return from it: the host changes what it likes and steps again (R206). -/
def raise (e : Fault) : Answer := .fault e

/-- `refuse NotImplemented(c)`: the block has no meaning for opcode `c`; nothing is changed (R147, R203). -/
def refuse (c : Nat) : Answer := .refused (.notImplemented c)

/-- `pc <- pc + 1` (R143, R150). -/
def State.advancePc (s : State) : State := s.withPc (s.pc + 1)

/-- The end of a step (R143, R144): only an `Ok` one commits its writes and advances pc. -/
def commit : Answer → Answer
  | .next s => .next s.advancePc
  | .fault e => raise e
  | .refused r => .refused r

/-- Fetch (R52): the whole Word at pc, no field applied, pc checked first. -/
def fetch (s : State) : Except Fault Word :=
  if 3999 < s.pc.toNat then .error (.memoryOutOfBounds s.pc.toNat .fetch) else .ok (Memory.read s.mem s.pc.toNat)

/-- The spec's numbers for the fault kinds (R201; D16, log entry 21); "no step" is no kind of that table. -/
def Fault.code : Fault → Option Nat
  | .addressOverflow _ => some 1
  | .memoryOutOfBounds _ _ => some 2
  | .badOpcode _ => some 3
  | .badFieldSpecification _ => some 4
  | .badIndexField _ => some 5
  | .noStepHalted => none

/-- The spec's number for a refusal (R201; D16, log entry 21). -/
def Refusal.code : Refusal → Option Nat
  | .notImplemented _ => some 6
  | _ => none

end Sys2Proof.Machine
end

