-- ==== Sys2Proof/Machine/Operands.lean ====
section
/-!
DEFINITION. The operand forms: the indexed effective address (41_decode_ea.md R141) and the bounds-checked, field-applying
operand read (20_memory.md R53; 42_arithmetic.md R170), the only two there are (30_encoding.md R75).
-/

namespace Sys2Proof.Machine

/-- What an index field selects (R72). -/
inductive IndexSelect where
  /-- I = 0: no index register. -/
  | unindexed
  /-- I in 1 to 6. -/
  | register (r : IndexReg)
  /-- I in 7 to 63 (D5, log entry 12). -/
  | invalid
deriving DecidableEq, Repr

/-- R72. -/
def indexSelect (i : Byte) : IndexSelect :=
  match i.toNat with
  | 0 => .unindexed
  | 1 => .register .i1
  | 2 => .register .i2
  | 3 => .register .i3
  | 4 => .register .i4
  | 5 => .register .i5
  | 6 => .register .i6
  | _ => .invalid

/-- The indexed sum (R141): overflow past ±4095 is a fault, never a truncation. -/
def indexedAddress (base index : Address) : Except Fault Address :=
  let t := decodeAddress base + decodeAddress index
  if 4095 < t.natAbs then .error (.addressOverflow t) else .ok (encodeAddress t)

/-- R141. The index register is read, never written; an unindexed base is returned as it is, −0 included. -/
def effectiveAddress (f : Fields) (s : State) : Except Fault Address :=
  match indexSelect f.index with
  | .unindexed => .ok f.base
  | .register r => indexedAddress f.base (s.index r)
  | .invalid => .error (.badIndexField f.index)

/-- R53: bounds first, then the field, then the Word with the field applied. A negative address is out of bounds (R51; D6,
log entry 13). -/
def memoryGet (align : FieldAlign) (m : Memory) (a : Address) (field : Byte) : Except Fault Word :=
  let n := decodeAddress a
  if n < 0 ∨ 3999 < n then .error (.memoryOutOfBounds n .operand)
  else
    match fieldRange field with
    | none => .error (.badFieldSpecification field)
    | some r => .ok (applyField align (Memory.read m n.toNat) r)

/-- Form EA before anything else, for every opcode (R143; D8, log entry 14). -/
def withEA (f : Fields) (s : State) (k : Address → Answer) : Answer :=
  match effectiveAddress f s with
  | .error e => raise e
  | .ok ea => k ea

/-- The operand `v` of an arithmetic instruction (R170): EA first, then the operand read. -/
def fetchOperand (f : Fields) (s : State) : Except Fault Word :=
  match effectiveAddress f s with
  | .error e => .error e
  | .ok ea => memoryGet s.fieldAlign s.mem ea f.field

/-- The operand, then the operation on it. A fault in it commits nothing (R170). -/
def withOperand (f : Fields) (s : State) (k : Word → Answer) : Answer :=
  match fetchOperand f s with
  | .error e => raise e
  | .ok v => k v

/-- An extension point (R147): EA is formed, its faults come first, then the refusal. -/
def extensionPoint (opcode : Nat) (f : Fields) (s : State) : Answer :=
  withEA f s fun _ => refuse opcode

/-- The defensive arm of dispatch for an opcode above 63 (R143, R148); no word reaches it. -/
def execBadOpcode (w : Word) (s : State) : Answer :=
  withEA (fieldsOf w) s fun _ => raise (.badOpcode (opcodeOf w))

end Sys2Proof.Machine
end

