-- ==== Sys2Proof/Machine/AddressTransfer.lean ====
section
/-!
DEFINITION. Opcodes 48 to 55, the family Address transfer: the source names it an extension point and gives it no effect,
so the block forms EA and refuses by name (41_decode_ea.md R147; 90_conflicts.md C2, C3; D7, log entry 8).
-/

namespace Sys2Proof.Machine

/-- OP48 (R147). -/
def execOp48 (f : Fields) (s : State) : Answer := extensionPoint 48 f s

/-- OP49 (R147). -/
def execOp49 (f : Fields) (s : State) : Answer := extensionPoint 49 f s

/-- OP50 (R147). -/
def execOp50 (f : Fields) (s : State) : Answer := extensionPoint 50 f s

/-- OP51 (R147). -/
def execOp51 (f : Fields) (s : State) : Answer := extensionPoint 51 f s

/-- OP52 (R147). -/
def execOp52 (f : Fields) (s : State) : Answer := extensionPoint 52 f s

/-- OP53 (R147). -/
def execOp53 (f : Fields) (s : State) : Answer := extensionPoint 53 f s

/-- OP54 (R147). -/
def execOp54 (f : Fields) (s : State) : Answer := extensionPoint 54 f s

/-- OP55 (R147). -/
def execOp55 (f : Fields) (s : State) : Answer := extensionPoint 55 f s

end Sys2Proof.Machine
end

