-- ==== Sys2Proof/Machine/Flags.lean ====
section
/-!
DEFINITION. The one flag instructions write: the sticky overflow flag OV (10_state.md R29; 42_arithmetic.md R171, R172, R174).
-/

namespace Sys2Proof.Machine

/-- The exact result does not fit a Word's magnitude: |n| > 2^30 − 1 (R171). -/
def exceedsWord (n : Int) : Bool := decide (2 ^ 30 - 1 < n.natAbs)

/-- OV after an addition or subtraction with exact result `n`: set on overflow, never cleared (R29, R171). -/
def overflowAfter (ov : Bool) (n : Int) : Bool := ov || exceedsWord n

/-- The divide case (R174): the divisor's magnitude is zero or not greater than A's. -/
def divideOverflows (a v : Word) : Bool :=
  let dmag := extractBytes v magnitudeBytes
  decide (dmag = 0) || decide (dmag ≤ wordMag a)

end Sys2Proof.Machine
end

