-- ==== Sys2Proof/Machine/Arithmetic.lean ====
section
/-!
DEFINITION. Opcodes 1 to 4 (42_arithmetic.md R170 to R177): the arithmetic kernel, a pure function of the operand, A, X, OV and
the draws (R36), and the four meanings over it. Every result is computed from the values before the step (R177).
-/

namespace Sys2Proof.Machine

/-! ## The kernel -/

/-- The exact result `n` written to A, truncated, OV set where it does not fit (R171). X is untouched. -/
def aluAccumulate (n : Int) (r : Alu) : Alu := { r with a := encodeWord n, ov := overflowAfter r.ov n }

/-- R171: v + A. -/
def aluAdd (v : Word) (r : Alu) : Alu := aluAccumulate (decodeWord v + decodeWord r.a) r

/-- R172: v − A, operand minus accumulator. -/
def aluSub (v : Word) (r : Alu) : Alu := aluAccumulate (decodeWord v - decodeWord r.a) r

/-- R173: v × A to the pair (A, X); OV is never written. -/
def aluMul (v : Word) (r : Alu) : Alu :=
  let p := encodeDoubleword (decodeWord v * decodeWord r.a)
  { r with a := p.1, x := p.2 }

/-- R174, R175: the quotient, rounded toward zero (D12, log entry 10), to A; the remainder, with A's old sign, to X. On a
divide fault OV is set and A and X become the draws. -/
def aluDiv (v undefA undefX : Word) (r : Alu) : Alu :=
  if divideOverflows r.a v then { a := undefA, x := undefX, ov := true }
  else
    let n := decodeDoubleword r.a r.x
    let d := decodeWord v
    { r with a := encodeWord (n.tdiv d), x := mkWord (wordSign r.a) (n.natAbs % d.natAbs) }

/-- DIV's effect on the state: the kernel's, and a draw is used up on a divide fault (R175; log entry 3). -/
def divideState (v : Word) (s : State) : State :=
  let t := s.withAlu (aluDiv v (Config.divUndefA s.draws) (Config.divUndefX s.draws) s.alu)
  if divideOverflows s.a v then t.tookDraw else t

/-! ## The instructions -/

/-- ADD (R171). -/
def execAdd (f : Fields) (s : State) : Answer :=
  withOperand f s fun v => .next (s.withAlu (aluAdd v s.alu))

/-- SUB (R172). -/
def execSub (f : Fields) (s : State) : Answer :=
  withOperand f s fun v => .next (s.withAlu (aluSub v s.alu))

/-- MUL (R173). -/
def execMul (f : Fields) (s : State) : Answer :=
  withOperand f s fun v => .next (s.withAlu (aluMul v s.alu))

/-- DIV (R174, R175). -/
def execDiv (f : Fields) (s : State) : Answer :=
  withOperand f s fun v => .next (divideState v s)

end Sys2Proof.Machine
end

