-- ==== Sys2Proof/Machine/Compare.lean ====
section
/-!
DEFINITION. Opcodes 56 to 63, the family Compare. None writes CI: the source names it an extension point and gives it no effect,
so the block forms EA and refuses by name (41_decode_ea.md R147; 90_conflicts.md C2, C3; D7, log entry 8).
-/

namespace Sys2Proof.Machine

/-- OP56 (R147). -/
def execOp56 (f : Fields) (s : State) : Answer := extensionPoint 56 f s

/-- OP57 (R147). -/
def execOp57 (f : Fields) (s : State) : Answer := extensionPoint 57 f s

/-- OP58 (R147). -/
def execOp58 (f : Fields) (s : State) : Answer := extensionPoint 58 f s

/-- OP59 (R147). -/
def execOp59 (f : Fields) (s : State) : Answer := extensionPoint 59 f s

/-- OP60 (R147). -/
def execOp60 (f : Fields) (s : State) : Answer := extensionPoint 60 f s

/-- OP61 (R147). -/
def execOp61 (f : Fields) (s : State) : Answer := extensionPoint 61 f s

/-- OP62 (R147). -/
def execOp62 (f : Fields) (s : State) : Answer := extensionPoint 62 f s

/-- OP63 (R147). -/
def execOp63 (f : Fields) (s : State) : Answer := extensionPoint 63 f s

end Sys2Proof.Machine
end

