-- ==== Sys2Proof/Machine/InputOutput.lean ====
section
/-!
DEFINITION. Opcodes 34 to 38, the family I/O (the source names JBUS, IOC, IN, OUT, JRED): the source names it an extension point and gives it no effect,
so the block forms EA and refuses by name (41_decode_ea.md R147; 90_conflicts.md C2, C3; D7, log entry 8).
-/

namespace Sys2Proof.Machine

/-- OP34 (R147). -/
def execOp34 (f : Fields) (s : State) : Answer := extensionPoint 34 f s

/-- OP35 (R147). -/
def execOp35 (f : Fields) (s : State) : Answer := extensionPoint 35 f s

/-- OP36 (R147). -/
def execOp36 (f : Fields) (s : State) : Answer := extensionPoint 36 f s

/-- OP37 (R147). -/
def execOp37 (f : Fields) (s : State) : Answer := extensionPoint 37 f s

/-- OP38 (R147). -/
def execOp38 (f : Fields) (s : State) : Answer := extensionPoint 38 f s

end Sys2Proof.Machine
end

