-- ==== Sys2Proof/Machine/Jump.lean ====
section
/-!
DEFINITION. Opcodes 39 to 47, the family Jump. No jump changes pc: the source names it an extension point and gives it no effect,
so the block forms EA and refuses by name (41_decode_ea.md R147; 90_conflicts.md C2, C3; D7, log entry 8).
-/

namespace Sys2Proof.Machine

/-- OP39 (R147). -/
def execOp39 (f : Fields) (s : State) : Answer := extensionPoint 39 f s

/-- OP40 (R147). -/
def execOp40 (f : Fields) (s : State) : Answer := extensionPoint 40 f s

/-- OP41 (R147). -/
def execOp41 (f : Fields) (s : State) : Answer := extensionPoint 41 f s

/-- OP42 (R147). -/
def execOp42 (f : Fields) (s : State) : Answer := extensionPoint 42 f s

/-- OP43 (R147). -/
def execOp43 (f : Fields) (s : State) : Answer := extensionPoint 43 f s

/-- OP44 (R147). -/
def execOp44 (f : Fields) (s : State) : Answer := extensionPoint 44 f s

/-- OP45 (R147). -/
def execOp45 (f : Fields) (s : State) : Answer := extensionPoint 45 f s

/-- OP46 (R147). -/
def execOp46 (f : Fields) (s : State) : Answer := extensionPoint 46 f s

/-- OP47 (R147). -/
def execOp47 (f : Fields) (s : State) : Answer := extensionPoint 47 f s

end Sys2Proof.Machine
end

