-- ==== Sys2Proof/Machine/Load.lean ====
section
/-!
DEFINITION. Opcodes 8 to 23, the family Load: the source names it an extension point and gives it no effect,
so the block forms EA and refuses by name (41_decode_ea.md R147; 90_conflicts.md C2, C3; D7, log entry 8).
-/

namespace Sys2Proof.Machine

/-- OP8 (R147). -/
def execOp8 (f : Fields) (s : State) : Answer := extensionPoint 8 f s

/-- OP9 (R147). -/
def execOp9 (f : Fields) (s : State) : Answer := extensionPoint 9 f s

/-- OP10 (R147). -/
def execOp10 (f : Fields) (s : State) : Answer := extensionPoint 10 f s

/-- OP11 (R147). -/
def execOp11 (f : Fields) (s : State) : Answer := extensionPoint 11 f s

/-- OP12 (R147). -/
def execOp12 (f : Fields) (s : State) : Answer := extensionPoint 12 f s

/-- OP13 (R147). -/
def execOp13 (f : Fields) (s : State) : Answer := extensionPoint 13 f s

/-- OP14 (R147). -/
def execOp14 (f : Fields) (s : State) : Answer := extensionPoint 14 f s

/-- OP15 (R147). -/
def execOp15 (f : Fields) (s : State) : Answer := extensionPoint 15 f s

/-- OP16 (R147). -/
def execOp16 (f : Fields) (s : State) : Answer := extensionPoint 16 f s

/-- OP17 (R147). -/
def execOp17 (f : Fields) (s : State) : Answer := extensionPoint 17 f s

/-- OP18 (R147). -/
def execOp18 (f : Fields) (s : State) : Answer := extensionPoint 18 f s

/-- OP19 (R147). -/
def execOp19 (f : Fields) (s : State) : Answer := extensionPoint 19 f s

/-- OP20 (R147). -/
def execOp20 (f : Fields) (s : State) : Answer := extensionPoint 20 f s

/-- OP21 (R147). -/
def execOp21 (f : Fields) (s : State) : Answer := extensionPoint 21 f s

/-- OP22 (R147). -/
def execOp22 (f : Fields) (s : State) : Answer := extensionPoint 22 f s

/-- OP23 (R147). -/
def execOp23 (f : Fields) (s : State) : Answer := extensionPoint 23 f s

end Sys2Proof.Machine
end

