-- ==== Sys2Proof/Machine/Move.lean ====
section
/-!
DEFINITION. Opcode 7, the family Move: the source names it an extension point and gives it no effect,
so the block forms EA and refuses by name (41_decode_ea.md R147; 90_conflicts.md C2, C3; D7, log entry 8).
-/

namespace Sys2Proof.Machine

/-- OP7 (R147). -/
def execOp7 (f : Fields) (s : State) : Answer := extensionPoint 7 f s

end Sys2Proof.Machine
end

