-- ==== Sys2Proof/Machine/NoOp.lean ====
section
/-!
DEFINITION. Opcode 0 (41_decode_ea.md R146).
-/

namespace Sys2Proof.Machine

/-- NOP (R146): EA is formed, so its faults apply; then nothing. F is ignored and EA is not held against the memory. -/
def execNop (f : Fields) (s : State) : Answer := withEA f s fun _ => .next s

end Sys2Proof.Machine
end

