-- ==== Sys2Proof/Machine/Shift.lean ====
section
/-!
DEFINITION. Opcode 6, the family Shift (the source names SLA, SRA, SLAX, SRAX, SLC, SRC): the source names it an extension point and gives it no effect,
so the block forms EA and refuses by name (41_decode_ea.md R147; 90_conflicts.md C2, C3; D7, log entry 8).
-/

namespace Sys2Proof.Machine

/-- OP6 (R147). -/
def execOp6 (f : Fields) (s : State) : Answer := extensionPoint 6 f s

end Sys2Proof.Machine
end

