-- ==== Sys2Proof/Machine/Special.lean ====
section
/-!
DEFINITION. Opcode 5, the family Special (the source names NUM, CHAR, HLT). HLT does not set the halted bit: the source names it an extension point and gives it no effect,
so the block forms EA and refuses by name (41_decode_ea.md R147; 90_conflicts.md C2, C3; D7, log entry 8).
-/

namespace Sys2Proof.Machine

/-- OP5 (R147). -/
def execOp5 (f : Fields) (s : State) : Answer := extensionPoint 5 f s

end Sys2Proof.Machine
end

