-- ==== Sys2Proof/Machine/Store.lean ====
section
/-!
DEFINITION. Opcodes 24 to 33, the family Store: the source names it an extension point and gives it no effect,
so the block forms EA and refuses by name (41_decode_ea.md R147; 90_conflicts.md C2, C3; D7, log entry 8).
-/

namespace Sys2Proof.Machine

/-- OP24 (R147). -/
def execOp24 (f : Fields) (s : State) : Answer := extensionPoint 24 f s

/-- OP25 (R147). -/
def execOp25 (f : Fields) (s : State) : Answer := extensionPoint 25 f s

/-- OP26 (R147). -/
def execOp26 (f : Fields) (s : State) : Answer := extensionPoint 26 f s

/-- OP27 (R147). -/
def execOp27 (f : Fields) (s : State) : Answer := extensionPoint 27 f s

/-- OP28 (R147). -/
def execOp28 (f : Fields) (s : State) : Answer := extensionPoint 28 f s

/-- OP29 (R147). -/
def execOp29 (f : Fields) (s : State) : Answer := extensionPoint 29 f s

/-- OP30 (R147). -/
def execOp30 (f : Fields) (s : State) : Answer := extensionPoint 30 f s

/-- OP31 (R147). -/
def execOp31 (f : Fields) (s : State) : Answer := extensionPoint 31 f s

/-- OP32 (R147). -/
def execOp32 (f : Fields) (s : State) : Answer := extensionPoint 32 f s

/-- OP33 (R147). -/
def execOp33 (f : Fields) (s : State) : Answer := extensionPoint 33 f s

end Sys2Proof.Machine
end

