-- ==== Sys2Proof/Machine/Dispatch.lean ====
section
/-!
DEFINITION. Dispatch on the instruction (41_decode_ea.md R143, R76): one arm per constructor, each one call of its meaning.
-/

namespace Sys2Proof.Machine

def exec (i : Instr) (s : State) : Host.Outcome State Fault Refusal :=
  match i with
  | .nop f => Sys2Proof.Machine.execNop f s
  | .add f => Sys2Proof.Machine.execAdd f s
  | .sub f => Sys2Proof.Machine.execSub f s
  | .mul f => Sys2Proof.Machine.execMul f s
  | .div f => Sys2Proof.Machine.execDiv f s
  | .op5 f => Sys2Proof.Machine.execOp5 f s
  | .op6 f => Sys2Proof.Machine.execOp6 f s
  | .op7 f => Sys2Proof.Machine.execOp7 f s
  | .op8 f => Sys2Proof.Machine.execOp8 f s
  | .op9 f => Sys2Proof.Machine.execOp9 f s
  | .op10 f => Sys2Proof.Machine.execOp10 f s
  | .op11 f => Sys2Proof.Machine.execOp11 f s
  | .op12 f => Sys2Proof.Machine.execOp12 f s
  | .op13 f => Sys2Proof.Machine.execOp13 f s
  | .op14 f => Sys2Proof.Machine.execOp14 f s
  | .op15 f => Sys2Proof.Machine.execOp15 f s
  | .op16 f => Sys2Proof.Machine.execOp16 f s
  | .op17 f => Sys2Proof.Machine.execOp17 f s
  | .op18 f => Sys2Proof.Machine.execOp18 f s
  | .op19 f => Sys2Proof.Machine.execOp19 f s
  | .op20 f => Sys2Proof.Machine.execOp20 f s
  | .op21 f => Sys2Proof.Machine.execOp21 f s
  | .op22 f => Sys2Proof.Machine.execOp22 f s
  | .op23 f => Sys2Proof.Machine.execOp23 f s
  | .op24 f => Sys2Proof.Machine.execOp24 f s
  | .op25 f => Sys2Proof.Machine.execOp25 f s
  | .op26 f => Sys2Proof.Machine.execOp26 f s
  | .op27 f => Sys2Proof.Machine.execOp27 f s
  | .op28 f => Sys2Proof.Machine.execOp28 f s
  | .op29 f => Sys2Proof.Machine.execOp29 f s
  | .op30 f => Sys2Proof.Machine.execOp30 f s
  | .op31 f => Sys2Proof.Machine.execOp31 f s
  | .op32 f => Sys2Proof.Machine.execOp32 f s
  | .op33 f => Sys2Proof.Machine.execOp33 f s
  | .op34 f => Sys2Proof.Machine.execOp34 f s
  | .op35 f => Sys2Proof.Machine.execOp35 f s
  | .op36 f => Sys2Proof.Machine.execOp36 f s
  | .op37 f => Sys2Proof.Machine.execOp37 f s
  | .op38 f => Sys2Proof.Machine.execOp38 f s
  | .op39 f => Sys2Proof.Machine.execOp39 f s
  | .op40 f => Sys2Proof.Machine.execOp40 f s
  | .op41 f => Sys2Proof.Machine.execOp41 f s
  | .op42 f => Sys2Proof.Machine.execOp42 f s
  | .op43 f => Sys2Proof.Machine.execOp43 f s
  | .op44 f => Sys2Proof.Machine.execOp44 f s
  | .op45 f => Sys2Proof.Machine.execOp45 f s
  | .op46 f => Sys2Proof.Machine.execOp46 f s
  | .op47 f => Sys2Proof.Machine.execOp47 f s
  | .op48 f => Sys2Proof.Machine.execOp48 f s
  | .op49 f => Sys2Proof.Machine.execOp49 f s
  | .op50 f => Sys2Proof.Machine.execOp50 f s
  | .op51 f => Sys2Proof.Machine.execOp51 f s
  | .op52 f => Sys2Proof.Machine.execOp52 f s
  | .op53 f => Sys2Proof.Machine.execOp53 f s
  | .op54 f => Sys2Proof.Machine.execOp54 f s
  | .op55 f => Sys2Proof.Machine.execOp55 f s
  | .op56 f => Sys2Proof.Machine.execOp56 f s
  | .op57 f => Sys2Proof.Machine.execOp57 f s
  | .op58 f => Sys2Proof.Machine.execOp58 f s
  | .op59 f => Sys2Proof.Machine.execOp59 f s
  | .op60 f => Sys2Proof.Machine.execOp60 f s
  | .op61 f => Sys2Proof.Machine.execOp61 f s
  | .op62 f => Sys2Proof.Machine.execOp62 f s
  | .op63 f => Sys2Proof.Machine.execOp63 f s

end Sys2Proof.Machine
end

