-- ==== Sys2Proof/Machine/Step.lean ====
section
/-!
DEFINITION. One step (41_decode_ea.md R143 to R145): halted check, fetch, decode, EA and dispatch, commit.
-/

namespace Sys2Proof.Machine

/-- Decode and dispatch a fetched word (R143); the last arm is R148's, which no word reaches. -/
def dispatch (w : Word) (s : State) : Answer :=
  match decode w with
  | .ok i => exec i s
  | .error _ => execBadOpcode w s

/-- R143. While halted no step is taken (R32; D15, log entry 4). -/
def step (s : State) : Host.Outcome State Fault Refusal :=
  if s.halted then raise .noStepHalted
  else
    match fetch s with
    | .error e => raise e
    | .ok w => commit (dispatch w s)

/-- `s` with an instruction word stored where `step` fetches next, as the host loads a program between steps (R232; log entry 6).
A pc outside the memory is set to 0 and the halted bit is cleared, for no fetch happens otherwise. -/
def State.withFetchWord (s : State) (nbits w : Nat) : State :=
  let pc : Pc := if 3999 < s.pc.toNat then 0 else s.pc
  ((s.withPc pc).withHalted false).withMem (Memory.write s.mem pc.toNat (BitVec.ofNat 31 (w % 2 ^ nbits)))

end Sys2Proof.Machine
end

