-- ==== Sys2Proof/Machine/HostPort.lean ====
section
/-!
DEFINITION. What the host may do to the block between steps (10_state.md R35; 41_decode_ea.md R149; 70_reset_and_hazards.md R230,
R232, R234): read and write every element of state, reset it, step it, run it. None of this happens inside a step.
-/

namespace Sys2Proof.Machine

/-- The elements of state, as the host addresses them: every register, flag and word of R24 to R33. A memory element names one
of the 4000 words, so that no write outside the memory can be said. -/
inductive Element where
  | a
  | x
  | index (r : IndexReg)
  | j
  | ov
  | ci
  | pc
  | halted
  | word (k : Fin 4000)
deriving DecidableEq, Repr

/-- The type of the value an element holds. A host write supplies every stored bit, a sign bit of −0 included (R35). -/
abbrev Element.Value : Element → Type
  | .a => Word
  | .x => Word
  | .index _ => Address
  | .j => Address
  | .ov => Bool
  | .ci => Comparison
  | .pc => Pc
  | .halted => Bool
  | .word _ => Word

/-- The host reads an element (R35). -/
def hostRead (s : State) : (e : Element) → e.Value
  | .a => s.a
  | .x => s.x
  | .index r => s.index r
  | .j => s.j
  | .ov => s.ov
  | .ci => s.ci
  | .pc => s.pc
  | .halted => s.halted
  | .word k => Memory.read s.mem k.val

/-- The host writes an element (R35; D20, log entry 22). -/
def hostWrite (s : State) : (e : Element) → e.Value → State
  | .a, v => s.withA v
  | .x, v => s.withX v
  | .index r, v => s.withIndex r v
  | .j, v => s.withJ v
  | .ov, v => s.withOv v
  | .ci, v => s.withCi v
  | .pc, v => s.withPc v
  | .halted, v => s.withHalted v
  | .word k, v => s.withMem (Memory.write s.mem k.val v)

/-- The host's reset request (R230): every element of state at its reset value. The model's own fields stay: the parameter is
fixed for the machine and no draw is taken twice (log entries 2 and 3). -/
def hostReset (s : State) : State := { State.reset with fieldAlign := s.fieldAlign, draws := s.draws }

/-- Why a run ended (R149). -/
inductive Stop where
  | fault (e : Fault)
  | refused (r : Refusal)
deriving DecidableEq, Repr

/-- Where a run stands: its budget of steps used up, or stopped at its first step that is not `Ok`, with the state as that step
found and left it (R149, R205). A refusal stays as a mark on the whole run (R203). -/
inductive RunEnd where
  | spent (s : State)
  | stopped (s : State) (why : Stop)
deriving DecidableEq, Repr

/-- `run` under a step budget (R149; D25, log entry 23). -/
def run : Nat → State → RunEnd
  | 0, s => .spent s
  | n + 1, s =>
    match step s with
    | .next t => run n t
    | .fault e => .stopped s (.fault e)
    | .refused r => .stopped s (.refused r)

end Sys2Proof.Machine
end

