-- ==== Sys2Proof/WellFormed.lean ====
section
/-!
DEFINITION. Which instructions lie in the DEFINED part of the encoding space, as far as the word alone tells (30_encoding.md R78):
an index field in 0 to 6 for every opcode, and a valid field specification for the opcodes that read memory. An instruction that
is not well-formed still decodes (R77): its step ends in BadIndexField or BadFieldSpecification (R201), or, where an earlier
check of R204 applies, in that one.
-/

namespace Sys2Proof

/-- I names no register or one of I1 to I6 (R72). -/
def Instr.indexOk (i : Instr) : Bool := decide (i.fields.index.toNat ≤ 6)

/-- Opcodes 1 to 4 read a memory operand through the field F (R77). -/
def Instr.readsMemory (i : Instr) : Bool := decide (1 ≤ i.opcode ∧ i.opcode ≤ 4)

/-- F is a valid field specification wherever it is used (R73, R77). -/
def Instr.fieldOk (i : Instr) : Bool := !i.readsMemory || Machine.fieldValid i.fields.field

/-- Both checks. -/
def Instr.wellFormed (i : Instr) : Bool := i.indexOk && i.fieldOk

end Sys2Proof
end

