-- ==== Sys2Proof/Safety.lean ====
section
/-!
DEFINITION. The terms claims are stated in: when EA resolves and an operand can be read, said by the numbers of the spec and not by
the machine's own functions for them; the invariant of the machine; what a step leaves alone.
-/

namespace Sys2Proof.Machine

/-- The value an index field adds to the base: that of I1 to I6 for 1 to 6, else 0 (R72, R141). -/
def indexValue (s : State) (i : Byte) : Int :=
  if i = 1 then decodeAddress s.i1
  else if i = 2 then decodeAddress s.i2
  else if i = 3 then decodeAddress s.i3
  else if i = 4 then decodeAddress s.i4
  else if i = 5 then decodeAddress s.i5
  else if i = 6 then decodeAddress s.i6
  else 0

/-- The number of the effective address where there is one: base plus index (R141). -/
def eaNumber (f : Fields) (s : State) : Int := decodeAddress f.base + indexValue s f.index

/-- EA is formed without a fault: the index field is legal and the sum is an Address (R141). -/
def EaResolves (f : Fields) (s : State) : Prop := f.index.toNat ≤ 6 ∧ (eaNumber f s).natAbs ≤ 4095

/-- The operand of ADD, SUB, MUL and DIV is read without a fault (R53, R170): EA resolves, names a memory word, and F names the byte
range `r`. -/
def OperandReadable (f : Fields) (s : State) (r : ByteRange) : Prop :=
  EaResolves f s ∧ 0 ≤ eaNumber f s ∧ eaNumber f s ≤ 3999 ∧ fieldRange f.field = some r

/-- That operand: the memory word at EA with the field applied (R170). -/
def operandWord (f : Fields) (s : State) (r : ByteRange) : Word :=
  applyField s.fieldAlign (Memory.read s.mem (eaNumber f s).toNat) r

/-- The invariant: memory in canonical form, inside [0, 3999], and pc at most 4000 (R31, R33, R151). The pc bound is true of every
state a step leaves; only the host can write a pc above it. -/
def State.Inv (s : State) : Prop := Memory.wf s.mem = true ∧ s.pc.toNat ≤ 4000

/-- `t` differs from `s` in nothing but A, X, OV, pc and the model's draw count: J, I1 to I6, CI, the halted bit, the parameter and
every memory word are as before. -/
def SameOutsideAlu (s t : State) : Prop :=
  (∀ r, t.index r = s.index r) ∧ t.j = s.j ∧ t.ci = s.ci ∧ t.halted = s.halted ∧
  t.fieldAlign = s.fieldAlign ∧ (∀ n, Memory.read t.mem n = Memory.read s.mem n)

/-- An answer with its next state changed by `g`; faults and refusals as they are. -/
def onNext (g : State → State) : Answer → Answer
  | .next s => .next (g s)
  | .fault e => .fault e
  | .refused r => .refused r

/-- The block is about to execute instruction `i`: it runs, pc is in the memory, and the word there is `i` (R143). -/
def AboutToExecute (s : State) (i : Instr) : Prop :=
  s.halted = false ∧ s.pc.toNat ≤ 3999 ∧ decode (Memory.read s.mem s.pc.toNat) = .ok i

/-- A run of `n` steps from `s` is safe: every step ends `Ok` (R9). -/
def SafeFor (n : Nat) (s : State) : Prop := ∃ t, run n s = .spent t

end Sys2Proof.Machine
end

