-- ==== Sys2Proof/Certificates/Slice0/Obligations.lean ====
section
/-!
DEFINITION. The statements for the provers. Each docstring names the rule of spec/ it formalises and, where a clause rests on a choice
the spec or the model marks as its own, that decision (D<n> of 92_eei_decisions.md) and the log entry.
-/

open Sys2Proof Sys2Proof.Machine

/-! ## Encoding -/

/-- R140: the decoder takes S, AA, I, F and C from bits 30, 29..18, 17..12, 11..6 and 5..0, and cannot fail. -/
def Obligations.DecoderTakesTheFiveFields : Prop :=
  ∀ w : Word, ∃ i, decode w = .ok i ∧
    i.fields.base.toNat = w.toNat / 2 ^ 30 * 2 ^ 12 + w.toNat / 2 ^ 18 % 2 ^ 12 ∧
    i.fields.index.toNat = w.toNat / 2 ^ 12 % 2 ^ 6 ∧
    i.fields.field.toNat = w.toNat / 2 ^ 6 % 2 ^ 6 ∧
    i.opcode = w.toNat % 2 ^ 6

/-- Every instruction of all 64 rows, with every operand at every value, decodes back from its word (R70, R76). -/
def Obligations.DecodeOfEncodeIsIdentity : Prop :=
  ∀ i : Instr, decode (encode i) = .ok i

/-- R77's first sentence and its converse: every word is the word of exactly one instruction, the one it decodes to. -/
def Obligations.EveryWordIsExactlyOneInstruction : Prop :=
  ∀ w : Word, ∃ i, decode w = .ok i ∧ encode i = w ∧ ∀ j, encode j = w → j = i

/-- The words of R80's table and of its refused example, written out, decode to the instructions they stand for. That a base address takes the
sign of its word is the spec's own choice (D4, log entry 11). -/
def Obligations.WordsOfTheSpecDecode : Prop :=
  decode 0x00000000#31 = .ok (.nop ⟨0, 0, 0⟩) ∧
  decode 0x0FA00141#31 = .ok (.add ⟨mkAddr false 1000, 0, 5⟩) ∧
  decode 0x0FA00142#31 = .ok (.sub ⟨mkAddr false 1000, 0, 5⟩) ∧
  decode 0x0FA00143#31 = .ok (.mul ⟨mkAddr false 1000, 0, 5⟩) ∧
  decode 0x0FA00144#31 = .ok (.div ⟨mkAddr false 1000, 0, 5⟩) ∧
  decode 0x400432C1#31 = .ok (.add ⟨mkAddr true 1, 3, 11⟩) ∧
  decode 0x01901141#31 = .ok (.add ⟨mkAddr false 100, 1, 5⟩) ∧
  decode 0x40000141#31 = .ok (.add ⟨mkAddr true 0, 0, 5⟩) ∧
  decode 0x1F400148#31 = .ok (.op8 ⟨mkAddr false 2000, 0, 5⟩)

/-- R148: no step raises BadOpcode. -/
def Obligations.NoStepRaisesBadOpcode : Prop :=
  ∀ (s : State) (c : Nat), step s ≠ .fault (.badOpcode c)

/-- R73, R109: F names the pair (F div 8, F mod 8), valid iff L ≤ R ≤ 5; the 21 valid values; F = 5, the pair (0, 5), selects the
whole word. -/
def Obligations.FieldSpecificationValidity : Prop :=
  ∀ f : Byte,
    (∀ r, fieldRange f = some r ↔ r.first = f.toNat / 8 ∧ r.last = f.toNat % 8) ∧
    ((∃ r, fieldRange f = some r) ↔ f.toNat / 8 ≤ f.toNat % 8 ∧ f.toNat % 8 ≤ 5) ∧
    ((∃ r, fieldRange f = some r) ↔
      f.toNat ∈ [0, 1, 2, 3, 4, 5, 9, 10, 11, 12, 13, 18, 19, 20, 21, 27, 28, 29, 36, 37, 45]) ∧
    (f = 5 → ∃ r, fieldRange f = some r ∧ r.first = 0 ∧ r.last = 5 ∧ ∀ al w, applyField al w r = w)

/-! ## The numeric unit -/

/-- R100: sign and 12-bit magnitude, range ±4095, both zeros 0. -/
def Obligations.DecodeAddressIsSignedMagnitude : Prop :=
  ∀ a : Address,
    decodeAddress a = (if a.toNat / 2 ^ 12 = 1 then -1 else 1) * ((a.toNat % 2 ^ 12 : Nat) : Int) ∧
    -4095 ≤ decodeAddress a ∧ decodeAddress a ≤ 4095 ∧
    (decodeAddress a = 0 ↔ a = 0 ∨ a = mkAddr true 0)

/-- R102: sign and 30-bit magnitude, its range, the ranges of sums, differences and products, both zeros 0. -/
def Obligations.DecodeWordIsSignedMagnitude : Prop :=
  ∀ v w : Word,
    decodeWord w = (if w.toNat / 2 ^ 30 = 1 then -1 else 1) * ((w.toNat % 2 ^ 30 : Nat) : Int) ∧
    -(2 ^ 30 - 1) ≤ decodeWord w ∧ decodeWord w ≤ 2 ^ 30 - 1 ∧
    -(2 ^ 31 - 2) ≤ decodeWord v + decodeWord w ∧ decodeWord v + decodeWord w ≤ 2 ^ 31 - 2 ∧
    -(2 ^ 31 - 2) ≤ decodeWord v - decodeWord w ∧ decodeWord v - decodeWord w ≤ 2 ^ 31 - 2 ∧
    -(2 ^ 60 - 2 ^ 31 + 1) ≤ decodeWord v * decodeWord w ∧ decodeWord v * decodeWord w ≤ 2 ^ 60 - 2 ^ 31 + 1 ∧
    (decodeWord w = 0 ↔ w = 0 ∨ w = mkWord true 0)

/-- Sections 1 to 4 of 40_numeric.md: the encodes keep the sign of the integer and drop the magnitude's high bits. That the sign of 0 is + is
the spec's own choice (D11, log entry 9). -/
def Obligations.EncodesTruncateTheMagnitude : Prop :=
  ∀ v : Int,
    wordSign (encodeWord v) = decide (v < 0) ∧ wordMag (encodeWord v) = v.natAbs % 2 ^ 30 ∧
    addrSign (encodeAddress v) = decide (v < 0) ∧ addrMag (encodeAddress v) = v.natAbs % 2 ^ 12 ∧
    wordSign (encodeDoubleword v).1 = decide (v < 0) ∧ wordSign (encodeDoubleword v).2 = decide (v < 0) ∧
    wordMag (encodeDoubleword v).1 * 2 ^ 30 + wordMag (encodeDoubleword v).2 = v.natAbs % 2 ^ 60

/-- Section 2 of 40_numeric.md, the round trips (R104, which the spec marks as derived): exact in range, a truncation outside it, and every
Word but −0 comes back. That an encoded 0 has sign +, so that +0 comes back and −0 comes back as +0, is the spec's own choice (D11, log
entry 9). -/
def Obligations.ConversionsRoundTrip : Prop :=
  (∀ v : Int, v.natAbs ≤ 2 ^ 30 - 1 → decodeWord (encodeWord v) = v) ∧
  (∀ v : Int, v.natAbs ≤ 4095 → decodeAddress (encodeAddress v) = v) ∧
  (∀ v : Int, (decodeWord (encodeWord v)).natAbs = v.natAbs % 2 ^ 30 ∧
    (decodeAddress (encodeAddress v)).natAbs = v.natAbs % 2 ^ 12) ∧
  (∀ w : Word, w ≠ mkWord true 0 → encodeWord (decodeWord w) = w) ∧
  encodeWord (decodeWord (mkWord true 0)) = mkWord false 0

/-- R105: the sign is that of `hi`, the magnitude mag(hi)·2^30 + mag(lo), and the sign of `lo` is ignored. -/
def Obligations.DecodeDoublewordRule : Prop :=
  ∀ hi lo : Word,
    decodeDoubleword hi lo =
      (if hi.toNat / 2 ^ 30 = 1 then -1 else 1) * ((hi.toNat % 2 ^ 30 * 2 ^ 30 + lo.toNat % 2 ^ 30 : Nat) : Int) ∧
    -(2 ^ 60 - 1) ≤ decodeDoubleword hi lo ∧ decodeDoubleword hi lo ≤ 2 ^ 60 - 1 ∧
    ∀ b, decodeDoubleword hi (mkWord b (wordMag lo)) = decodeDoubleword hi lo

/-- Section 3 of 40_numeric.md: a 60-bit integer survives the pair. -/
def Obligations.DoublewordRoundTrip : Prop :=
  ∀ v : Int, v.natAbs ≤ 2 ^ 60 - 1 → decodeDoubleword (encodeDoubleword v).1 (encodeDoubleword v).2 = v

/-- R108: the bits extracted, the whole word for (0, 5), the sign bit alone for (0, 0), and never the sign bit for from ≥ 1. -/
def Obligations.ExtractBytesRule : Prop :=
  ∀ (w : Word) (r : ByteRange),
    (r.first = 0 → r.width = 6 * r.last + 1 ∧ extractBytes w r = w.toNat / 2 ^ (30 - 6 * r.last)) ∧
    (1 ≤ r.first → r.width = 6 * (r.last - r.first + 1) ∧
      extractBytes w r = w.toNat / 2 ^ (30 - 6 * r.last) % 2 ^ (6 * (r.last - r.first + 1))) ∧
    extractBytes w r < 2 ^ r.width ∧
    (r.first = 0 → r.last = 5 → extractBytes w r = w.toNat) ∧
    (r.first = 0 → r.last = 0 → extractBytes w r = (wordSign w).toNat) ∧
    (1 ≤ r.first → ∀ b, extractBytes (mkWord b (wordMag w)) r = extractBytes w r)

/-- Section 6 of 40_numeric.md under FIELD_ALIGN = byte, byte by byte. That this reading is the default is the spec's own choice (D2, log
entry 2). -/
def Obligations.ApplyFieldByteByByte : Prop :=
  ∀ (w : Word) (r : ByteRange) (k : Nat), 1 ≤ k → k ≤ 5 →
    (r.first = 0 →
      wordSign (applyField .byte w r) = wordSign w ∧
      wordByte (applyField .byte w r) k = if k ≤ r.last then wordByte w k else 0) ∧
    (1 ≤ r.first →
      wordSign (applyField .byte w r) = false ∧
      wordByte (applyField .byte w r) k =
        if k ≤ r.last - r.first + 1 then wordByte w (r.first + k - 1) else 0)

/-- R111: under FIELD_ALIGN = bit the extracted bits move to the top; equal to the byte reading for L = 0, one bit further left for L ≥ 1. -/
def Obligations.ApplyFieldBitReading : Prop :=
  ∀ (w : Word) (r : ByteRange),
    (applyField .bit w r).toNat = extractBytes w r * 2 ^ (31 - r.width) ∧
    (r.first = 0 → applyField .bit w r = applyField .byte w r) ∧
    (1 ≤ r.first → applyField .bit w r = applyField .byte w r <<< 1)

/-! ## Effective address, operand, fetch -/

/-- Section 2 of 41_decode_ea.md, case by case. The fault for I above 6 is the spec's own choice (D5, log entry 12). -/
def Obligations.EffectiveAddressRule : Prop :=
  ∀ (f : Fields) (s : State),
    (f.index.toNat = 0 → effectiveAddress f s = .ok f.base) ∧
    (1 ≤ f.index.toNat → f.index.toNat ≤ 6 →
      ((eaNumber f s).natAbs ≤ 4095 →
        effectiveAddress f s = .ok (encodeAddress (eaNumber f s)) ∧
        decodeAddress (encodeAddress (eaNumber f s)) = eaNumber f s) ∧
      (4095 < (eaNumber f s).natAbs → effectiveAddress f s = .error (.addressOverflow (eaNumber f s)))) ∧
    (7 ≤ f.index.toNat → effectiveAddress f s = .error (.badIndexField f.index))

/-- R26: index field 0 indexes nothing, index field k reads register Ik, and no step writes an index register; a host write does. -/
def Obligations.IndexRegistersAreReadAndNeverWritten : Prop :=
  (∀ (f : Fields) (s : State),
    (f.index = 0 → effectiveAddress f s = .ok f.base) ∧
    (f.index = 1 → effectiveAddress f s = indexedAddress f.base s.i1) ∧
    (f.index = 2 → effectiveAddress f s = indexedAddress f.base s.i2) ∧
    (f.index = 3 → effectiveAddress f s = indexedAddress f.base s.i3) ∧
    (f.index = 4 → effectiveAddress f s = indexedAddress f.base s.i4) ∧
    (f.index = 5 → effectiveAddress f s = indexedAddress f.base s.i5) ∧
    (f.index = 6 → effectiveAddress f s = indexedAddress f.base s.i6)) ∧
  (∀ s t : State, step s = .next t →
    t.i1 = s.i1 ∧ t.i2 = s.i2 ∧ t.i3 = s.i3 ∧ t.i4 = s.i4 ∧ t.i5 = s.i5 ∧ t.i6 = s.i6) ∧
  (∀ (s : State) (r : IndexReg) (v : Address), (hostWrite s (.index r) v).index r = v)

/-- Section 3 of 20_memory.md: bounds before field, then the word with the field applied. The field fault and the fault of a negative
address are the spec's own choices (D3, D6, log entries 18 and 13). -/
def Obligations.MemoryGetRule : Prop :=
  ∀ (al : FieldAlign) (m : Memory) (a : Address) (field : Byte),
    (decodeAddress a < 0 ∨ 3999 < decodeAddress a →
      memoryGet al m a field = .error (.memoryOutOfBounds (decodeAddress a) .operand)) ∧
    (0 ≤ decodeAddress a → decodeAddress a ≤ 3999 →
      (field.toNat % 8 < field.toNat / 8 ∨ 5 < field.toNat % 8 →
        memoryGet al m a field = .error (.badFieldSpecification field)) ∧
      (∀ r, fieldRange field = some r →
        memoryGet al m a field = .ok (applyField al (Memory.read m (decodeAddress a).toNat) r)))

/-- Section 2 of 20_memory.md and section 6 of 41_decode_ea.md: a running block with pc above 3999 faults on fetch, reporting pc (D22, log
entry 15); an `Ok` step at 3999 leaves pc at 4000. -/
def Obligations.FetchAboveMemoryFaults : Prop :=
  (∀ s : State, s.halted = false → 3999 < s.pc.toNat →
    step s = .fault (.memoryOutOfBounds s.pc.toNat .fetch)) ∧
  (∀ s t : State, s.pc.toNat = 3999 → step s = .next t →
    t.pc.toNat = 4000 ∧ step t = .fault (.memoryOutOfBounds 4000 .fetch))

/-- R58: no step writes memory; of the host's writes only one of a memory word changes a word, that one. -/
def Obligations.OnlyTheHostWritesMemory : Prop :=
  (∀ s t : State, step s = .next t → ∀ n, Memory.read t.mem n = Memory.read s.mem n) ∧
  (∀ (s : State) (e : Element) (v : e.Value), (∀ k, e ≠ .word k) → (hostWrite s e v).mem = s.mem) ∧
  (∀ (s : State) (k : Fin 4000) (v : Word), Memory.wf s.mem = true →
    ∀ n, Memory.read (hostWrite s (.word k) v).mem n = if n = k.val then v else Memory.read s.mem n)

/-- Section 4 of 20_memory.md: a step reads at most two words. Memories that agree at pc and at the fetched instruction's EA give the same
step, each keeping its own memory (under the same draws: R145, log entry 3). -/
def Obligations.StepReadsAtMostTwoWords : Prop :=
  ∀ (s : State) (m : Memory),
    Memory.read m s.pc.toNat = Memory.read s.mem s.pc.toNat →
    Memory.read m (eaNumber (fieldsOf (Memory.read s.mem s.pc.toNat)) s).toNat =
      Memory.read s.mem (eaNumber (fieldsOf (Memory.read s.mem s.pc.toNat)) s).toNat →
    step (s.withMem m) = onNext (fun t => t.withMem m) (step s)

/-! ## The step -/

/-- R143's order of operations, with the spec's choices D8 and D15 (log entries 14 and 4): a step at a word that decodes to `i` is `exec i`, its
next state with pc one further, and a fault or refusal as it is. -/
def Obligations.StepExecutesTheDecodedInstruction : Prop :=
  ∀ (s : State) (i : Instr), AboutToExecute s i →
    (∀ t, exec i s = .next t → step s = .next { t with pc := t.pc + 1 }) ∧
    (∀ e, exec i s = .fault e → step s = .fault e) ∧
    (∀ r, exec i s = .refused r → step s = .refused r)

/-- D15, log entry 4: a halted block takes no step, whatever else the state holds. -/
def Obligations.HaltedBlockTakesNoStep : Prop :=
  ∀ s : State, s.halted = true → step s = .fault .noStepHalted

/-- R150: every `Ok` step sets pc to pc + 1, and the jump family never ends `Ok`. -/
def Obligations.OkStepAdvancesPcByOne : Prop :=
  (∀ s t : State, step s = .next t → s.pc.toNat ≤ 3999 ∧ t.pc.toNat = s.pc.toNat + 1) ∧
  (∀ (s t : State) (i : Instr), 39 ≤ i.opcode → i.opcode ≤ 47 → exec i s ≠ .next t)

/-- Section 2 of 60_exceptions.md: the eight checks in their order. The order of 3, 4 before dispatch and of 6 before 7 is the spec's own
choice (D8, log entry 14), and so are these outcomes: a halted block takes no step (D15), the fetch fault (D22, log entry 15),
BadIndexField (D5, log entry 12), the refusal (D7, log entry 8), the fault of a negative address (D6, log entry 13) and
BadFieldSpecification (D3, log entry 18). That "no step" is answered as the fault noStepHalted is the model's choice (log entry 4). -/
def Obligations.ChecksInTheirOrder : Prop :=
  ∀ (s : State) (w : Word) (f : Fields), w = Memory.read s.mem s.pc.toNat → f = fieldsOf w →
    (s.halted = true → step s = .fault .noStepHalted) ∧
    (s.halted = false →
      (3999 < s.pc.toNat → step s = .fault (.memoryOutOfBounds s.pc.toNat .fetch)) ∧
      (s.pc.toNat ≤ 3999 →
        (6 < f.index.toNat → step s = .fault (.badIndexField f.index)) ∧
        (f.index.toNat ≤ 6 →
          (4095 < (eaNumber f s).natAbs → step s = .fault (.addressOverflow (eaNumber f s))) ∧
          ((eaNumber f s).natAbs ≤ 4095 →
            (5 ≤ opcodeOf w → step s = .refused (.notImplemented (opcodeOf w))) ∧
            (opcodeOf w = 0 → ∃ t, step s = .next t) ∧
            (1 ≤ opcodeOf w → opcodeOf w ≤ 4 →
              (eaNumber f s < 0 ∨ 3999 < eaNumber f s →
                step s = .fault (.memoryOutOfBounds (eaNumber f s) .operand)) ∧
              (0 ≤ eaNumber f s → eaNumber f s ≤ 3999 →
                (fieldRange f.field = none → step s = .fault (.badFieldSpecification f.field)) ∧
                (fieldRange f.field ≠ none → ∃ t, step s = .next t)))))))

/-- Section 6 of 41_decode_ea.md (R149): a run stops at its first step that is not `Ok` and goes on from an `Ok` one, the spec's own choice
(D25, log entry 23). It stops in the state that step found, pc still at the instruction, since a faulting or refused step commits nothing
(section 3 of 41_decode_ea.md, section 3 of 60_exceptions.md), the spec's own choice too (D9, log entry 15). "No step" is among the faults as
noStepHalted, the model's choice (log entry 4). -/
def Obligations.StoppedRunKeepsTheState : Prop :=
  ∀ (n : Nat) (s : State),
    (∀ e, step s = .fault e → run (n + 1) s = .stopped s (.fault e)) ∧
    (∀ r, step s = .refused r → run (n + 1) s = .stopped s (.refused r)) ∧
    (∀ t, step s = .next t → run (n + 1) s = run n t)

/-- A stop is final for the run: no further budget clears it (R203, R149; the spec's own choices D7, D25, log entries 8 and 23). -/
def Obligations.RunKeepsItsStop : Prop :=
  ∀ (n k : Nat) (s t : State) (w : Stop), run n s = .stopped t w → run (n + k) s = .stopped t w

/-- pc rises by one a step and a fetch above 3999 faults, so every run from every state stops within 4001 steps (from R150, R151). It rests on
the spec's own choices of where a run stops (D25, log entry 23), of the refusal (D7, log entry 8), of the fetch fault (D22, log entry 15) and of
no step while halted (D15), which the model answers as the fault noStepHalted (log entry 4). -/
def Obligations.EveryRunStopsWithin4001Steps : Prop :=
  ∀ s : State, ∃ t w, run 4001 s = .stopped t w

/-- The other side of that bound: unindexed NOPs from pc to the top of memory run, one `Ok` step each, up to pc = 4000 (from R146, R151).
That a run goes on from an `Ok` step, under a budget, is the spec's own choice (D25, log entry 23). -/
def Obligations.NopsRunToTheTopOfMemory : Prop :=
  ∀ s : State, s.halted = false → s.pc.toNat ≤ 4000 →
    (∀ n, s.pc.toNat ≤ n → n ≤ 3999 → opcodeOf (Memory.read s.mem n) = 0 ∧ (fieldsOf (Memory.read s.mem n)).index = 0) →
    SafeFor (4000 - s.pc.toNat) s ∧ run (4000 - s.pc.toNat) s = .spent (s.withPc 4000)

/-! ## NOP and the extension points -/

/-- Section 4 of 41_decode_ea.md: where EA resolves, NOP changes nothing, whatever F is and wherever EA lies; its step only advances pc. That
EA must resolve is the spec's own choice (D8, log entry 14). -/
def Obligations.NopOnlyAdvancesPc : Prop :=
  ∀ (f : Fields) (s : State), EaResolves f s →
    exec (.nop f) s = .next s ∧
    (AboutToExecute s (.nop f) → step s = .next { s with pc := s.pc + 1 }) ∧
    ∀ field, exec (.nop { f with field := field }) s = .next s

/-- Section 5 of 41_decode_ea.md: each of the 59 rows OP5 to OP63 (R147) forms EA, whose faults come first, and is then refused by its opcode,
whatever the state. Three of these are the spec's own choices: the refusal (D7, log entry 8), that EA is formed and its faults are taken before
it (D8, log entry 14), and BadIndexField for an index field above 6 (D5, log entry 12). -/
def Obligations.ExtensionPointsAreRefused : Prop :=
  ∀ (i : Instr) (s : State), 5 ≤ i.opcode →
    (EaResolves i.fields s → exec i s = .refused (.notImplemented i.opcode)) ∧
    (6 < i.fields.index.toNat → exec i s = .fault (.badIndexField i.fields.index)) ∧
    (i.fields.index.toNat ≤ 6 → 4095 < (eaNumber i.fields s).natAbs →
      exec i s = .fault (.addressOverflow (eaNumber i.fields s)))

/-! ## Arithmetic -/

/-- R171: v + A, OV set where |n| > 2^30 − 1 and never cleared, the truncated result always written, every other element as before; an
operand fault commits nothing. -/
def Obligations.AddComputesOperandPlusA : Prop :=
  ∀ (f : Fields) (s : State),
    (∀ r n, OperandReadable f s r → n = decodeWord (operandWord f s r) + decodeWord s.a →
      exec (.add f) s = .next { s with a := encodeWord n, ov := s.ov || decide (2 ^ 30 - 1 < n.natAbs) } ∧
      (n ≠ 0 → wordSign (encodeWord n) = decide (n < 0)) ∧
      wordMag (encodeWord n) = (if 2 ^ 30 - 1 < n.natAbs then n.natAbs - 2 ^ 30 else n.natAbs)) ∧
    (∀ e, fetchOperand f s = .error e → exec (.add f) s = .fault e)

/-- R172: as ADD with v − A, operand minus accumulator. -/
def Obligations.SubComputesOperandMinusA : Prop :=
  ∀ (f : Fields) (s : State),
    (∀ r n, OperandReadable f s r → n = decodeWord (operandWord f s r) - decodeWord s.a →
      exec (.sub f) s = .next { s with a := encodeWord n, ov := s.ov || decide (2 ^ 30 - 1 < n.natAbs) } ∧
      (n ≠ 0 → wordSign (encodeWord n) = decide (n < 0)) ∧
      wordMag (encodeWord n) = (if 2 ^ 30 - 1 < n.natAbs then n.natAbs - 2 ^ 30 else n.natAbs)) ∧
    (∀ e, fetchOperand f s = .error e → exec (.sub f) s = .fault e)

/-- R173: the pair (A, X) becomes the exact product v × A, both words with its sign; OV and every other element as before; an operand
fault commits nothing. -/
def Obligations.MulWritesTheExactProduct : Prop :=
  ∀ (f : Fields) (s : State),
    (∀ r p, OperandReadable f s r → p = decodeWord (operandWord f s r) * decodeWord s.a →
      ∃ a x, exec (.mul f) s = .next { s with a := a, x := x } ∧
        decodeDoubleword a x = p ∧
        wordMag a = p.natAbs / 2 ^ 30 ∧ wordMag x = p.natAbs % 2 ^ 30 ∧
        (p ≠ 0 → wordSign a = decide (p < 0) ∧ wordSign x = decide (p < 0))) ∧
    (∀ e, fetchOperand f s = .error e → exec (.mul f) s = .fault e)

/-- Section 4 of 42_arithmetic.md, the ordinary case: the quotient truncated toward zero (the spec's own choice D12, log entry 10) to A, the
remainder of magnitudes with A's old sign to X, every other element as before. That a zero quotient is +0 and a zero remainder keeps the sign of
A is the spec's own choice too (D11, log entry 9). -/
def Obligations.DivWritesQuotientAndRemainder : Prop :=
  ∀ (f : Fields) (s : State) (r : ByteRange) (v : Word), OperandReadable f s r → v = operandWord f s r →
    wordMag s.a < wordMag v →
    exec (.div f) s = .next { s with
      a := encodeWord ((decodeDoubleword s.a s.x).tdiv (decodeWord v))
      x := mkWord (wordSign s.a) ((decodeDoubleword s.a s.x).natAbs % (decodeWord v).natAbs) }

/-- Section 4 of 42_arithmetic.md, the divide case: OV is set, A and X become some words of which nothing is said (D13, log entry 3), every other
element of the hardware's state is as before and DIV still completes. -/
def Obligations.DivFaultSetsOverflowAndCompletes : Prop :=
  ∀ (f : Fields) (s : State) (r : ByteRange) (v : Word), OperandReadable f s r → v = operandWord f s r →
    wordMag v = 0 ∨ wordMag v ≤ wordMag s.a →
    ∃ a x, exec (.div f) s = .next { s with a := a, x := x, ov := true, draws := s.draws + 1 }

/-- What the ordinary DIV means (the spec's own choices D12 for the rounding and D11 for the sign of a zero, log entries 10 and 9): quotient
times divisor plus remainder is the dividend, the remainder is smaller than the divisor and has A's old sign, the quotient fits and is
negative only where the signs of A and v differ. -/
def Obligations.DivQuotientAndRemainderIdentity : Prop :=
  ∀ (f : Fields) (s t : State) (r : ByteRange) (v : Word), OperandReadable f s r → v = operandWord f s r →
    wordMag s.a < wordMag v → exec (.div f) s = .next t →
    decodeWord t.a * decodeWord v + decodeWord t.x = decodeDoubleword s.a s.x ∧
    wordMag t.x < wordMag v ∧ wordSign t.x = wordSign s.a ∧
    (wordSign t.a = true → wordSign s.a ≠ wordSign v) ∧
    (wordMag t.a ≠ 0 → wordSign s.a ≠ wordSign v → wordSign t.a = true) ∧
    (wordMag t.a = 0 → wordSign t.a = false)

/-- Section 4 of 40_numeric.md: a result of 0 is +0 whatever the signs that made it, A and X both for MUL (the spec's own choice D11, log
entry 9). -/
def Obligations.ZeroResultsArePlusZero : Prop :=
  ∀ (f : Fields) (s : State) (r : ByteRange) (v : Word), OperandReadable f s r → v = operandWord f s r →
    (decodeWord v + decodeWord s.a = 0 → exec (.add f) s = .next { s with a := 0 }) ∧
    (decodeWord v - decodeWord s.a = 0 → exec (.sub f) s = .next { s with a := 0 }) ∧
    (decodeWord v * decodeWord s.a = 0 → exec (.mul f) s = .next { s with a := 0, x := 0 })

/-- Section 1 of 42_arithmetic.md, with section 2 of 41_decode_ea.md and section 3 of 20_memory.md: ADD, SUB, MUL and DIV end in the operand's
fault, one of four, where there is no readable operand. BadIndexField (D5, log entry 12), the fault of a negative address (D6, log entry 13) and
BadFieldSpecification (D3, log entry 18) are the spec's own choices, and which operands are readable rests on them. -/
def Obligations.ArithmeticEndsInTheOperandFault : Prop :=
  ∀ (f : Fields) (s : State),
    (∀ v, fetchOperand f s = .ok v ↔ ∃ r, OperandReadable f s r ∧ v = operandWord f s r) ∧
    (∀ e, fetchOperand f s = .error e →
      exec (.add f) s = .fault e ∧ exec (.sub f) s = .fault e ∧ exec (.mul f) s = .fault e ∧ exec (.div f) s = .fault e ∧
      (e = .badIndexField f.index ∨ e = .addressOverflow (eaNumber f s) ∨
        e = .memoryOutOfBounds (eaNumber f s) .operand ∨ e = .badFieldSpecification f.field))

/-- R202: overflow of ADD or SUB and the divide case of DIV end the step `Ok` with OV set. -/
def Obligations.OverflowIsNoFault : Prop :=
  ∀ (f : Fields) (s : State) (r : ByteRange) (v : Word), OperandReadable f s r → v = operandWord f s r →
    (AboutToExecute s (.add f) → 2 ^ 30 - 1 < (decodeWord v + decodeWord s.a).natAbs → ∃ t, step s = .next t ∧ t.ov = true) ∧
    (AboutToExecute s (.sub f) → 2 ^ 30 - 1 < (decodeWord v - decodeWord s.a).natAbs → ∃ t, step s = .next t ∧ t.ov = true) ∧
    (AboutToExecute s (.div f) → wordMag v = 0 ∨ wordMag v ≤ wordMag s.a → ∃ t, step s = .next t ∧ t.ov = true)

/-- R29: OV is set by ADD and SUB on overflow and by DIV in the divide case, by nothing else, and no instruction clears it; reset and a host
write of OV do. -/
def Obligations.OverflowFlagIsSticky : Prop :=
  (∀ (i : Instr) (s t : State), exec i s = .next t →
    (t.ov = true ↔ s.ov = true ∨
      ∃ f r v, OperandReadable f s r ∧ v = operandWord f s r ∧
        (i = .add f ∧ 2 ^ 30 - 1 < (decodeWord v + decodeWord s.a).natAbs ∨
         i = .sub f ∧ 2 ^ 30 - 1 < (decodeWord v - decodeWord s.a).natAbs ∨
         i = .div f ∧ (wordMag v = 0 ∨ wordMag v ≤ wordMag s.a)))) ∧
  (∀ s t : State, step s = .next t → s.ov = true → t.ov = true) ∧
  (∀ s : State, (hostReset s).ov = false ∧ (hostWrite s .ov false).ov = false)

/-- Section 2 of 10_state.md and section 3 of 42_arithmetic.md: ADD and SUB neither read nor write X, and MUL does not read it. -/
def Obligations.XIsNotReadByAddSubMul : Prop :=
  ∀ (f : Fields) (s : State) (v : Word),
    exec (.add f) (s.withX v) = onNext (fun t => t.withX v) (exec (.add f) s) ∧
    exec (.sub f) (s.withX v) = onNext (fun t => t.withX v) (exec (.sub f) s) ∧
    exec (.mul f) (s.withX v) = exec (.mul f) s

/-- The frame of every instruction that completes (NOP, ADD, SUB, MUL, DIV): everything outside A, X, OV and the model's draw count is as
before, every memory word read included; ADD and SUB leave X, MUL leaves OV, NOP leaves all. -/
def Obligations.FrameOfEveryInstruction : Prop :=
  ∀ (i : Instr) (s t : State), exec i s = .next t →
    SameOutsideAlu s t ∧ t.pc = s.pc ∧
    (∀ f, i = .nop f → t = s) ∧
    (∀ f, i = .add f ∨ i = .sub f → t.x = s.x ∧ t.draws = s.draws) ∧
    (∀ f, i = .mul f → t.ov = s.ov ∧ t.draws = s.draws) ∧
    (∀ f, i = .div f → t.draws = s.draws ∨ t.ov = true ∧ t.draws = s.draws + 1)

/-- R30: no instruction reads CI and none writes it: a step does the same under every value of CI and carries it along (under the same draws:
R145, log entry 3). Of the host's writes only that of CI writes it. -/
def Obligations.ComparisonIndicatorIsNeverUsed : Prop :=
  (∀ (s : State) (c : Comparison), step (s.withCi c) = onNext (fun t => t.withCi c) (step s)) ∧
  (∀ s t : State, step s = .next t → t.ci = s.ci) ∧
  (∀ (s : State) (e : Element) (v : e.Value), e ≠ .ci → (hostWrite s e v).ci = s.ci) ∧
  (∀ (s : State) (c : Comparison), (hostWrite s .ci c).ci = c)

/-- Section 2 of 10_state.md: no instruction reads or writes J, and a numeric read of J ignores its stored sign (D24, log
entry 19). The two steps compared are under the same draws (R145, log entry 3). -/
def Obligations.JumpRegisterIsNeverUsed : Prop :=
  (∀ (s : State) (v : Address), step (s.withJ v) = onNext (fun t => t.withJ v) (step s)) ∧
  (∀ (s : State) (b : Bool) (m : Nat), (s.withJ (mkAddr b m)).jumpNumber = m % 2 ^ 12)

/-- Section 5 of 42_arithmetic.md: an instruction may address its own word; the operand is then the instruction word with F applied. -/
def Obligations.InstructionMayReadItsOwnWord : Prop :=
  ∀ (s : State) (i : Instr) (r : ByteRange), AboutToExecute s i → OperandReadable i.fields s r →
    eaNumber i.fields s = s.pc.toNat →
    operandWord i.fields s r = applyField s.fieldAlign (encode i) r

/-! ## Reset, host, invariant -/

/-- The reset values, all of them the spec's own choice (R38; D14, log entry 5), and the model's two own fields (log entries 2 and 3). -/
def Obligations.ResetValues : Prop :=
  ∀ s : State,
    (hostReset s).a = 0 ∧ (hostReset s).x = 0 ∧ (∀ r, (hostReset s).index r = 0) ∧ (hostReset s).j = 0 ∧
    (hostReset s).ov = false ∧ (hostReset s).ci = .equal ∧ (hostReset s).pc = 0 ∧ (hostReset s).halted = false ∧
    (∀ n, Memory.read (hostReset s).mem n = 0) ∧ (hostReset s).fieldAlign = s.fieldAlign ∧ (hostReset s).draws = s.draws ∧
    hostReset State.reset = State.reset

/-- Section 6 of 10_state.md: the host reads back what it wrote to any element, and every other element is as before (D20, log entry 22). -/
def Obligations.HostReadsBackWhatItWrote : Prop :=
  ∀ (s : State) (e : Element) (v : e.Value), Memory.wf s.mem = true →
    hostRead (hostWrite s e v) e = v ∧
    (∀ e', e' ≠ e → hostRead (hostWrite s e v) e' = hostRead s e') ∧
    (hostWrite s e v).fieldAlign = s.fieldAlign ∧ (hostWrite s e v).draws = s.draws

/-- The invariant (memory canonical and inside [0, 3999], pc at most 4000; R31, R33, R151) holds after reset. The reset values are the spec's own
choice (D14, log entry 5), the canonical form of memory is the model's (log entry 1). -/
def Obligations.InvariantHoldsAtReset : Prop := State.reset.Inv

/-- Every step keeps the invariant, from every state that has it; and with canonical memory alone it holds after any `Ok` step, whatever pc
the host had set, since a fetch above 3999 faults (D22, log entry 15). The canonical form of memory is the model's (log entry 1). -/
def Obligations.EveryStepKeepsTheInvariant : Prop :=
  (∀ s t : State, s.Inv → step s = .next t → t.Inv) ∧
  (∀ s t : State, Memory.wf s.mem = true → step s = .next t → t.Inv)

/-- The placing of a word for the next fetch (log entry 6): the very next step runs exactly the instruction the decoder reads from it. -/
def Obligations.PlacedWordRunsNext : Prop :=
  ∀ (s : State) (nbits w : Nat) (i : Instr), Memory.wf s.mem = true → decodeTableWord nbits w = some i →
    AboutToExecute (s.withFetchWord nbits w) i
end

