-- ==== Sys2Proof/Laws/PerInstr.lean ====
section
/-!
SUPPORT. Statements for all instructions, made per instruction. OfOpcode: the opcode map gives an instruction back from its
opcode and its operand fields (30_encoding.md R76), and the opcode fits the six bits of C (R74).
-/

namespace Sys2Proof.Laws.OfOpcode

def Statement (i : Instr) : Prop := instrOf i.opcode i.fields = .ok i ∧ i.opcode < 64

theorem nop (f : Fields) : Statement (.nop f) := ⟨rfl, Nat.le_of_ble_eq_true rfl⟩
theorem add (f : Fields) : Statement (.add f) := ⟨rfl, Nat.le_of_ble_eq_true rfl⟩
theorem sub (f : Fields) : Statement (.sub f) := ⟨rfl, Nat.le_of_ble_eq_true rfl⟩
theorem mul (f : Fields) : Statement (.mul f) := ⟨rfl, Nat.le_of_ble_eq_true rfl⟩
theorem div (f : Fields) : Statement (.div f) := ⟨rfl, Nat.le_of_ble_eq_true rfl⟩
theorem op5 (f : Fields) : Statement (.op5 f) := ⟨rfl, Nat.le_of_ble_eq_true rfl⟩
theorem op6 (f : Fields) : Statement (.op6 f) := ⟨rfl, Nat.le_of_ble_eq_true rfl⟩
theorem op7 (f : Fields) : Statement (.op7 f) := ⟨rfl, Nat.le_of_ble_eq_true rfl⟩
theorem op8 (f : Fields) : Statement (.op8 f) := ⟨rfl, Nat.le_of_ble_eq_true rfl⟩
theorem op9 (f : Fields) : Statement (.op9 f) := ⟨rfl, Nat.le_of_ble_eq_true rfl⟩
theorem op10 (f : Fields) : Statement (.op10 f) := ⟨rfl, Nat.le_of_ble_eq_true rfl⟩
theorem op11 (f : Fields) : Statement (.op11 f) := ⟨rfl, Nat.le_of_ble_eq_true rfl⟩
theorem op12 (f : Fields) : Statement (.op12 f) := ⟨rfl, Nat.le_of_ble_eq_true rfl⟩
theorem op13 (f : Fields) : Statement (.op13 f) := ⟨rfl, Nat.le_of_ble_eq_true rfl⟩
theorem op14 (f : Fields) : Statement (.op14 f) := ⟨rfl, Nat.le_of_ble_eq_true rfl⟩
theorem op15 (f : Fields) : Statement (.op15 f) := ⟨rfl, Nat.le_of_ble_eq_true rfl⟩
theorem op16 (f : Fields) : Statement (.op16 f) := ⟨rfl, Nat.le_of_ble_eq_true rfl⟩
theorem op17 (f : Fields) : Statement (.op17 f) := ⟨rfl, Nat.le_of_ble_eq_true rfl⟩
theorem op18 (f : Fields) : Statement (.op18 f) := ⟨rfl, Nat.le_of_ble_eq_true rfl⟩
theorem op19 (f : Fields) : Statement (.op19 f) := ⟨rfl, Nat.le_of_ble_eq_true rfl⟩
theorem op20 (f : Fields) : Statement (.op20 f) := ⟨rfl, Nat.le_of_ble_eq_true rfl⟩
theorem op21 (f : Fields) : Statement (.op21 f) := ⟨rfl, Nat.le_of_ble_eq_true rfl⟩
theorem op22 (f : Fields) : Statement (.op22 f) := ⟨rfl, Nat.le_of_ble_eq_true rfl⟩
theorem op23 (f : Fields) : Statement (.op23 f) := ⟨rfl, Nat.le_of_ble_eq_true rfl⟩
theorem op24 (f : Fields) : Statement (.op24 f) := ⟨rfl, Nat.le_of_ble_eq_true rfl⟩
theorem op25 (f : Fields) : Statement (.op25 f) := ⟨rfl, Nat.le_of_ble_eq_true rfl⟩
theorem op26 (f : Fields) : Statement (.op26 f) := ⟨rfl, Nat.le_of_ble_eq_true rfl⟩
theorem op27 (f : Fields) : Statement (.op27 f) := ⟨rfl, Nat.le_of_ble_eq_true rfl⟩
theorem op28 (f : Fields) : Statement (.op28 f) := ⟨rfl, Nat.le_of_ble_eq_true rfl⟩
theorem op29 (f : Fields) : Statement (.op29 f) := ⟨rfl, Nat.le_of_ble_eq_true rfl⟩
theorem op30 (f : Fields) : Statement (.op30 f) := ⟨rfl, Nat.le_of_ble_eq_true rfl⟩
theorem op31 (f : Fields) : Statement (.op31 f) := ⟨rfl, Nat.le_of_ble_eq_true rfl⟩
theorem op32 (f : Fields) : Statement (.op32 f) := ⟨rfl, Nat.le_of_ble_eq_true rfl⟩
theorem op33 (f : Fields) : Statement (.op33 f) := ⟨rfl, Nat.le_of_ble_eq_true rfl⟩
theorem op34 (f : Fields) : Statement (.op34 f) := ⟨rfl, Nat.le_of_ble_eq_true rfl⟩
theorem op35 (f : Fields) : Statement (.op35 f) := ⟨rfl, Nat.le_of_ble_eq_true rfl⟩
theorem op36 (f : Fields) : Statement (.op36 f) := ⟨rfl, Nat.le_of_ble_eq_true rfl⟩
theorem op37 (f : Fields) : Statement (.op37 f) := ⟨rfl, Nat.le_of_ble_eq_true rfl⟩
theorem op38 (f : Fields) : Statement (.op38 f) := ⟨rfl, Nat.le_of_ble_eq_true rfl⟩
theorem op39 (f : Fields) : Statement (.op39 f) := ⟨rfl, Nat.le_of_ble_eq_true rfl⟩
theorem op40 (f : Fields) : Statement (.op40 f) := ⟨rfl, Nat.le_of_ble_eq_true rfl⟩
theorem op41 (f : Fields) : Statement (.op41 f) := ⟨rfl, Nat.le_of_ble_eq_true rfl⟩
theorem op42 (f : Fields) : Statement (.op42 f) := ⟨rfl, Nat.le_of_ble_eq_true rfl⟩
theorem op43 (f : Fields) : Statement (.op43 f) := ⟨rfl, Nat.le_of_ble_eq_true rfl⟩
theorem op44 (f : Fields) : Statement (.op44 f) := ⟨rfl, Nat.le_of_ble_eq_true rfl⟩
theorem op45 (f : Fields) : Statement (.op45 f) := ⟨rfl, Nat.le_of_ble_eq_true rfl⟩
theorem op46 (f : Fields) : Statement (.op46 f) := ⟨rfl, Nat.le_of_ble_eq_true rfl⟩
theorem op47 (f : Fields) : Statement (.op47 f) := ⟨rfl, Nat.le_of_ble_eq_true rfl⟩
theorem op48 (f : Fields) : Statement (.op48 f) := ⟨rfl, Nat.le_of_ble_eq_true rfl⟩
theorem op49 (f : Fields) : Statement (.op49 f) := ⟨rfl, Nat.le_of_ble_eq_true rfl⟩
theorem op50 (f : Fields) : Statement (.op50 f) := ⟨rfl, Nat.le_of_ble_eq_true rfl⟩
theorem op51 (f : Fields) : Statement (.op51 f) := ⟨rfl, Nat.le_of_ble_eq_true rfl⟩
theorem op52 (f : Fields) : Statement (.op52 f) := ⟨rfl, Nat.le_of_ble_eq_true rfl⟩
theorem op53 (f : Fields) : Statement (.op53 f) := ⟨rfl, Nat.le_of_ble_eq_true rfl⟩
theorem op54 (f : Fields) : Statement (.op54 f) := ⟨rfl, Nat.le_of_ble_eq_true rfl⟩
theorem op55 (f : Fields) : Statement (.op55 f) := ⟨rfl, Nat.le_of_ble_eq_true rfl⟩
theorem op56 (f : Fields) : Statement (.op56 f) := ⟨rfl, Nat.le_of_ble_eq_true rfl⟩
theorem op57 (f : Fields) : Statement (.op57 f) := ⟨rfl, Nat.le_of_ble_eq_true rfl⟩
theorem op58 (f : Fields) : Statement (.op58 f) := ⟨rfl, Nat.le_of_ble_eq_true rfl⟩
theorem op59 (f : Fields) : Statement (.op59 f) := ⟨rfl, Nat.le_of_ble_eq_true rfl⟩
theorem op60 (f : Fields) : Statement (.op60 f) := ⟨rfl, Nat.le_of_ble_eq_true rfl⟩
theorem op61 (f : Fields) : Statement (.op61 f) := ⟨rfl, Nat.le_of_ble_eq_true rfl⟩
theorem op62 (f : Fields) : Statement (.op62 f) := ⟨rfl, Nat.le_of_ble_eq_true rfl⟩
theorem op63 (f : Fields) : Statement (.op63 f) := ⟨rfl, Nat.le_of_ble_eq_true rfl⟩

theorem all (i : Instr) : Statement i := by
  cases i
  case nop f => exact nop f
  case add f => exact add f
  case sub f => exact sub f
  case mul f => exact mul f
  case div f => exact div f
  case op5 f => exact op5 f
  case op6 f => exact op6 f
  case op7 f => exact op7 f
  case op8 f => exact op8 f
  case op9 f => exact op9 f
  case op10 f => exact op10 f
  case op11 f => exact op11 f
  case op12 f => exact op12 f
  case op13 f => exact op13 f
  case op14 f => exact op14 f
  case op15 f => exact op15 f
  case op16 f => exact op16 f
  case op17 f => exact op17 f
  case op18 f => exact op18 f
  case op19 f => exact op19 f
  case op20 f => exact op20 f
  case op21 f => exact op21 f
  case op22 f => exact op22 f
  case op23 f => exact op23 f
  case op24 f => exact op24 f
  case op25 f => exact op25 f
  case op26 f => exact op26 f
  case op27 f => exact op27 f
  case op28 f => exact op28 f
  case op29 f => exact op29 f
  case op30 f => exact op30 f
  case op31 f => exact op31 f
  case op32 f => exact op32 f
  case op33 f => exact op33 f
  case op34 f => exact op34 f
  case op35 f => exact op35 f
  case op36 f => exact op36 f
  case op37 f => exact op37 f
  case op38 f => exact op38 f
  case op39 f => exact op39 f
  case op40 f => exact op40 f
  case op41 f => exact op41 f
  case op42 f => exact op42 f
  case op43 f => exact op43 f
  case op44 f => exact op44 f
  case op45 f => exact op45 f
  case op46 f => exact op46 f
  case op47 f => exact op47 f
  case op48 f => exact op48 f
  case op49 f => exact op49 f
  case op50 f => exact op50 f
  case op51 f => exact op51 f
  case op52 f => exact op52 f
  case op53 f => exact op53 f
  case op54 f => exact op54 f
  case op55 f => exact op55 f
  case op56 f => exact op56 f
  case op57 f => exact op57 f
  case op58 f => exact op58 f
  case op59 f => exact op59 f
  case op60 f => exact op60 f
  case op61 f => exact op61 f
  case op62 f => exact op62 f
  case op63 f => exact op63 f

end Sys2Proof.Laws.OfOpcode
end

