-- ==== Sys2Proof/Laws/Encoding.lean ====
section
/-!
SUPPORT. The one word format: the fields and the opcode of a packed word, and that decoding rejects no word (30_encoding.md R70;
41_decode_ea.md R140, R148).
-/

namespace Sys2Proof

theorem packWord_toNat (f : Fields) (c : Nat) :
    (packWord f c).toNat = f.base.toNat * 2 ^ 18 + f.index.toNat * 2 ^ 12 + f.field.toNat * 2 ^ 6 + c % 2 ^ 6 := by
  have h1 := f.index.isLt
  have h2 := f.field.isLt
  have h3 : c % 2 ^ 6 < 2 ^ 6 := Nat.mod_lt _ (by decide)
  simp only [packWord, BitVec.toNat_append, BitVec.toNat_ofNat]
  rw [← Nat.shiftLeft_add_eq_or_of_lt h3, ← Nat.shiftLeft_add_eq_or_of_lt h2, ← Nat.shiftLeft_add_eq_or_of_lt h1]
  simp only [Nat.shiftLeft_eq]
  omega

theorem opcodeOf_packWord (f : Fields) (c : Nat) : opcodeOf (packWord f c) = c % 64 := by
  rw [opcodeOf, BitVec.extractLsb'_toNat, packWord_toNat, Nat.shiftRight_zero]
  omega

theorem fieldsOf_packWord (f : Fields) (c : Nat) : fieldsOf (packWord f c) = f := by
  obtain ⟨b, i, F⟩ := f
  have h0 := b.isLt
  have h1 := i.isLt
  have h2 := F.isLt
  simp only [fieldsOf, Fields.mk.injEq]
  refine ⟨?_, ?_, ?_⟩ <;>
    · apply BitVec.eq_of_toNat_eq
      rw [BitVec.extractLsb'_toNat, packWord_toNat, Nat.shiftRight_eq_div_pow]
      simp only
      omega

theorem packWord_fieldsOf (w : Word) : packWord (fieldsOf w) (opcodeOf w) = w := by
  have h := w.isLt
  apply BitVec.eq_of_toNat_eq
  rw [packWord_toNat]
  simp only [fieldsOf, opcodeOf, BitVec.extractLsb'_toNat, Nat.shiftRight_eq_div_pow]
  omega

theorem opcodeOf_lt (w : Word) : opcodeOf w < 64 := (w.extractLsb' 0 6).isLt

/-- What the opcode map answers: for an opcode below 64 an instruction with that opcode and those fields (R76). -/
theorem instrOf_ok {c : Nat} (h : c < 64) (f : Fields) : ∃ i, instrOf c f = .ok i ∧ i.opcode = c ∧ i.fields = f := by
  interval_cases c <;> exact ⟨_, rfl, rfl, rfl⟩

/-- Every word decodes, to an instruction with the word's own opcode and fields (R77, R140). -/
theorem decode_ok (w : Word) : ∃ i, decode w = .ok i ∧ i.opcode = opcodeOf w ∧ i.fields = fieldsOf w :=
  instrOf_ok (opcodeOf_lt w) _

end Sys2Proof
end

