-- ==== Sys2Proof/Laws/Memory.lean ====
section
/-!
SUPPORT. Memory: read after write, the canonical form kept by every write and had by the reset memory, and that it is canonical:
memories that read alike are equal.
-/

namespace Sys2Proof.Machine

theorem read_nil (a : Nat) : Memory.read [] a = Memory.unlisted := rfl

theorem wfFrom_mono {lo lo' : Nat} (h : lo' ≤ lo) : ∀ {m : Memory}, Memory.wfFrom lo m = true → Memory.wfFrom lo' m = true
  | [], _ => rfl
  | (b, v) :: m, hm => by
    simp only [Memory.wfFrom, Bool.and_eq_true, decide_eq_true_eq] at hm ⊢
    exact ⟨⟨⟨by omega, hm.1.1.2⟩, hm.1.2⟩, hm.2⟩

theorem wfFrom_cons {lo b : Nat} {v : Word} {m : Memory} :
    Memory.wfFrom lo ((b, v) :: m) = true ↔ lo ≤ b ∧ b < 4000 ∧ v ≠ Memory.unlisted ∧ Memory.wfFrom (b + 1) m = true := by
  simp [Memory.wfFrom, and_assoc]

theorem read_below {lo : Nat} : ∀ {m : Memory}, Memory.wfFrom lo m = true → ∀ a, a < lo → Memory.read m a = Memory.unlisted
  | [], _, _, _ => rfl
  | (b, v) :: m, hm, a, ha => by
    obtain ⟨h1, -, -, h4⟩ := wfFrom_cons.1 hm
    have hne : b ≠ a := by omega
    simp only [Memory.read, if_neg hne]
    exact read_below h4 a (by omega)

theorem wfFrom_consCell {lo a : Nat} {w : Word} {m : Memory} (hlo : lo ≤ a) (ha : a < 4000)
    (hm : Memory.wfFrom (a + 1) m = true) : Memory.wfFrom lo (Memory.consCell a w m) = true := by
  unfold Memory.consCell
  split
  · exact wfFrom_mono (by omega) hm
  · exact wfFrom_cons.2 ⟨hlo, ha, ‹_›, hm⟩

/-- A write to a memory address keeps the canonical form. -/
theorem wfFrom_write {lo a : Nat} {w : Word} (hlo : lo ≤ a) (ha : a < 4000) :
    ∀ {m : Memory}, Memory.wfFrom lo m = true → Memory.wfFrom lo (Memory.write m a w) = true
  | [], _ => wfFrom_consCell hlo ha rfl
  | (b, v) :: m, hm => by
    obtain ⟨h1, h2, h3, h4⟩ := wfFrom_cons.1 hm
    unfold Memory.write
    split
    · exact wfFrom_consCell hlo ha (wfFrom_cons.2 ⟨by omega, h2, h3, h4⟩)
    · split
      · subst_vars; exact wfFrom_consCell hlo ha h4
      · exact wfFrom_cons.2 ⟨h1, h2, h3, wfFrom_write (by omega) ha h4⟩

theorem wf_write {m : Memory} {a : Nat} {w : Word} (ha : a < 4000) (hm : Memory.wf m = true) :
    Memory.wf (Memory.write m a w) = true := wfFrom_write (Nat.zero_le a) ha hm

theorem wf_reset : Memory.wf State.reset.mem = true := rfl

theorem read_consCell {a : Nat} {w : Word} {m : Memory} (n : Nat) (hm : Memory.read m a = Memory.unlisted) :
    Memory.read (Memory.consCell a w m) n = if n = a then w else Memory.read m n := by
  unfold Memory.consCell
  by_cases hw : w = Memory.unlisted
  · by_cases hn : n = a
    · subst hn; simp [hw, hm]
    · simp [hw, hn]
  · simp only [if_neg hw, Memory.read]
    by_cases hn : n = a
    · simp [hn]
    · simp [hn, Ne.symm hn]

/-- Read after write, in a canonical memory: the written word at the written address, every other word as before. -/
theorem wfFrom_read_write {lo a : Nat} {w : Word} (n : Nat) :
    ∀ {m : Memory}, Memory.wfFrom lo m = true →
      Memory.read (Memory.write m a w) n = if n = a then w else Memory.read m n
  | [], _ => read_consCell n rfl
  | (b, v) :: m, hm => by
    obtain ⟨-, h2, h3, h4⟩ := wfFrom_cons.1 hm
    unfold Memory.write
    split
    · exact read_consCell n (read_below (wfFrom_cons.2 ⟨Nat.le_refl b, h2, h3, h4⟩) a ‹_›)
    · split
      · subst_vars
        rw [read_consCell n (read_below h4 _ (by omega))]
        by_cases hn : n = b
        · simp [hn]
        · simp [hn, Memory.read, Ne.symm hn]
      · simp only [Memory.read]
        rw [wfFrom_read_write n h4]
        by_cases hb : b = n
        · subst hb; simp [Ne.symm ‹¬a = b›]
        · simp [hb]

theorem read_write {m : Memory} {a : Nat} {w : Word} (n : Nat) (hm : Memory.wf m = true) :
    Memory.read (Memory.write m a w) n = if n = a then w else Memory.read m n := wfFrom_read_write n hm

/-- Memories in canonical form that read alike at every address are the same data. -/
theorem wfFrom_ext {lo : Nat} : ∀ {m n : Memory}, Memory.wfFrom lo m = true → Memory.wfFrom lo n = true →
    (∀ a, Memory.read m a = Memory.read n a) → m = n
  | [], [], _, _, _ => rfl
  | [], (b, v) :: n, _, hn, h => by
    obtain ⟨-, -, h3, -⟩ := wfFrom_cons.1 hn
    exact absurd (by simpa [Memory.read] using (h b).symm) h3
  | (b, v) :: m, [], hm, _, h => by
    obtain ⟨-, -, h3, -⟩ := wfFrom_cons.1 hm
    exact absurd (by simpa [Memory.read] using h b) h3
  | (b, v) :: m, (c, u) :: n, hm, hn, h => by
    obtain ⟨-, -, m3, m4⟩ := wfFrom_cons.1 hm
    obtain ⟨-, -, n3, n4⟩ := wfFrom_cons.1 hn
    have hbc : b = c := by
      rcases Nat.lt_trichotomy b c with hlt | heq | hlt
      · have hne : c ≠ b := by omega
        have := h b
        simp only [Memory.read, if_true, if_neg hne, read_below n4 b (by omega)] at this
        exact absurd this m3
      · exact heq
      · have hne : b ≠ c := by omega
        have := h c
        simp only [Memory.read, if_true, if_neg hne, read_below m4 c (by omega)] at this
        exact absurd this.symm n3
    subst hbc
    have hvu : v = u := by simpa [Memory.read] using h b
    subst hvu
    have hmn : m = n := by
      refine wfFrom_ext m4 n4 fun a => ?_
      by_cases ha : b = a
      · subst ha; rw [read_below m4 b (by omega), read_below n4 b (by omega)]
      · simpa [Memory.read, ha] using h a
    rw [hmn]

theorem wf_ext {m n : Memory} (hm : Memory.wf m = true) (hn : Memory.wf n = true)
    (h : ∀ a, Memory.read m a = Memory.read n a) : m = n := wfFrom_ext hm hn h

/-- The host's write keeps the canonical form (R35): the only writes to memory there are (R58). -/
theorem hostWrite_wf {s : State} (h : Memory.wf s.mem = true) (e : Element) (v : e.Value) :
    Memory.wf (hostWrite s e v).mem = true := by
  cases e
  case index r => cases r <;> exact h
  case word k => exact wf_write k.isLt h
  all_goals exact h

theorem hostReset_wf (s : State) : Memory.wf (hostReset s).mem = true := rfl

end Sys2Proof.Machine
end

