-- ==== Sys2Proof/Laws/Numeric.lean ====
section
/-!
SUPPORT. The numeric unit: what each pack, unpack and extract function does, in terms of sign and magnitude (40_numeric.md).
-/

namespace Sys2Proof.Machine

/-! ## Words -/

theorem wordMag_eq (w : Word) : wordMag w = w.toNat % 2 ^ 30 := by
  simp [wordMag, BitVec.extractLsb'_toNat]

theorem wordMag_lt (w : Word) : wordMag w < 2 ^ 30 := (w.extractLsb' 0 30).isLt

theorem mkWord_toNat (s : Bool) (m : Nat) : (mkWord s m).toNat = s.toNat * 2 ^ 30 + m % 2 ^ 30 := by
  have h : m % 2 ^ 30 < 2 ^ 30 := Nat.mod_lt _ (by decide)
  simp only [mkWord, BitVec.toNat_append, BitVec.toNat_ofBool, BitVec.toNat_ofNat]
  rw [← Nat.shiftLeft_add_eq_or_of_lt h, Nat.shiftLeft_eq]

theorem wordMag_mkWord (s : Bool) (m : Nat) : wordMag (mkWord s m) = m % 2 ^ 30 := by
  rw [wordMag_eq, mkWord_toNat]; omega

theorem wordSign_eq (w : Word) : wordSign w = decide (2 ^ 30 ≤ w.toNat) := by
  have h := w.isLt
  simp only [wordSign, BitVec.getLsbD, Nat.testBit_eq_decide_div_mod_eq]
  congr 1
  apply propext
  omega

theorem wordSign_mkWord (s : Bool) (m : Nat) : wordSign (mkWord s m) = s := by
  have h : m % 2 ^ 30 < 2 ^ 30 := Nat.mod_lt _ (by decide)
  rw [wordSign_eq, mkWord_toNat]
  cases s
  · simp; omega
  · simp

/-- A Word is its sign and its magnitude. -/
theorem mkWord_sign_mag (w : Word) : mkWord (wordSign w) (wordMag w) = w := by
  have h := w.isLt
  apply BitVec.eq_of_toNat_eq
  rw [mkWord_toNat, wordSign_eq, wordMag_eq]
  by_cases hs : 2 ^ 30 ≤ w.toNat
  · rw [decide_eq_true hs, Bool.toNat_true]; omega
  · rw [decide_eq_false hs, Bool.toNat_false]; omega

theorem word_ext {v w : Word} (hs : wordSign v = wordSign w) (hm : wordMag v = wordMag w) : v = w := by
  rw [← mkWord_sign_mag v, ← mkWord_sign_mag w, hs, hm]

/-! ## Addresses -/

theorem addrMag_eq (a : Address) : addrMag a = a.toNat % 2 ^ 12 := by
  simp [addrMag, BitVec.extractLsb'_toNat]

theorem addrMag_lt (a : Address) : addrMag a < 2 ^ 12 := (a.extractLsb' 0 12).isLt

theorem mkAddr_toNat (s : Bool) (m : Nat) : (mkAddr s m).toNat = s.toNat * 2 ^ 12 + m % 2 ^ 12 := by
  have h : m % 2 ^ 12 < 2 ^ 12 := Nat.mod_lt _ (by decide)
  simp only [mkAddr, BitVec.toNat_append, BitVec.toNat_ofBool, BitVec.toNat_ofNat]
  rw [← Nat.shiftLeft_add_eq_or_of_lt h, Nat.shiftLeft_eq]

theorem addrMag_mkAddr (s : Bool) (m : Nat) : addrMag (mkAddr s m) = m % 2 ^ 12 := by
  rw [addrMag_eq, mkAddr_toNat]; omega

theorem addrSign_eq (a : Address) : addrSign a = decide (2 ^ 12 ≤ a.toNat) := by
  have h := a.isLt
  simp only [addrSign, BitVec.getLsbD, Nat.testBit_eq_decide_div_mod_eq]
  congr 1
  apply propext
  omega

theorem addrSign_mkAddr (s : Bool) (m : Nat) : addrSign (mkAddr s m) = s := by
  have h : m % 2 ^ 12 < 2 ^ 12 := Nat.mod_lt _ (by decide)
  rw [addrSign_eq, mkAddr_toNat]
  cases s
  · simp; omega
  · simp

/-! ## Conversions -/

theorem natAbs_signed (s : Bool) (m : Nat) : (signed s m).natAbs = m := by
  cases s <;> simp [signed]

theorem signed_natAbs (v : Int) : signed (decide (v < 0)) v.natAbs = v := by
  by_cases h : v < 0
  · rw [decide_eq_true h]; simp only [signed, if_true]; omega
  · rw [decide_eq_false h]; simp only [signed, Bool.false_eq_true, if_false]; omega

theorem natAbs_decodeWord (w : Word) : (decodeWord w).natAbs = wordMag w := natAbs_signed _ _

theorem natAbs_decodeAddress (a : Address) : (decodeAddress a).natAbs = addrMag a := natAbs_signed _ _

theorem decodeAddress_bounds (a : Address) : (decodeAddress a).natAbs ≤ 4095 := by
  have := addrMag_lt a
  rw [natAbs_decodeAddress]; omega

theorem wordSign_encodeWord (v : Int) : wordSign (encodeWord v) = decide (v < 0) := wordSign_mkWord _ _

theorem wordMag_encodeWord (v : Int) : wordMag (encodeWord v) = v.natAbs % 2 ^ 30 := by
  rw [encodeWord, wordMag_mkWord]; omega

/-- What a Word decodes to after an encode: the integer with its magnitude truncated (R103, R104). -/
theorem decodeWord_encodeWord (v : Int) :
    decodeWord (encodeWord v) = signed (decide (v < 0)) (v.natAbs % 2 ^ 30) := by
  rw [decodeWord, wordSign_encodeWord, wordMag_encodeWord]

theorem decodeAddress_encodeAddress (v : Int) :
    decodeAddress (encodeAddress v) = signed (decide (v < 0)) (v.natAbs % 2 ^ 12) := by
  rw [decodeAddress, encodeAddress, addrSign_mkAddr, addrMag_mkAddr]
  congr 1
  omega

/-- An indexed sum that is an Address is encoded without loss (R141). -/
theorem decodeAddress_encodeAddress_exact {v : Int} (h : v.natAbs ≤ 4095) : decodeAddress (encodeAddress v) = v := by
  rw [decodeAddress_encodeAddress, Nat.mod_eq_of_lt (by omega), signed_natAbs]

/-! ## Byte ranges -/

/-- A valid field names a range and the range names the field (R73). -/
theorem fieldRange_eq_some {f : Byte} {r : ByteRange} :
    fieldRange f = some r ↔ fieldLeft f = r.first ∧ fieldRight f = r.last := by
  obtain ⟨lo, hi, h1, h2⟩ := r
  unfold fieldRange
  split
  · simp
  · rename_i h
    simp only [reduceCtorEq, false_iff, not_and]
    rintro rfl rfl
    exact h ⟨h1, h2⟩

theorem fieldRange_eq_none {f : Byte} : fieldRange f = none ↔ fieldRight f < fieldLeft f ∨ 5 < fieldRight f := by
  unfold fieldRange
  split
  · simp; omega
  · simp; omega

/-- The range (1, 5) is the magnitude (R108, R174). -/
theorem extractBytes_magnitude (w : Word) : extractBytes w magnitudeBytes = wordMag w := rfl

/-! ## The overflow conditions -/

theorem exceedsWord_iff {n : Int} : exceedsWord n = true ↔ 2 ^ 30 - 1 < n.natAbs := decide_eq_true_iff

theorem overflowAfter_iff {ov : Bool} {n : Int} : overflowAfter ov n = true ↔ ov = true ∨ 2 ^ 30 - 1 < n.natAbs := by
  rw [overflowAfter, Bool.or_eq_true, exceedsWord_iff]

theorem divideOverflows_iff {a v : Word} : divideOverflows a v = true ↔ wordMag v = 0 ∨ wordMag v ≤ wordMag a := by
  simp only [divideOverflows]
  rw [Bool.or_eq_true, decide_eq_true_iff, decide_eq_true_iff, extractBytes_magnitude]

end Sys2Proof.Machine
end

