-- ==== Sys2Proof/Laws/State.lean ====
section
/-!
SUPPORT. Every field of the state after every named update, so that no later proof unfolds a record update.
-/

namespace Sys2Proof.Machine

variable (s : State)

/-! withA -/

@[simp] theorem withA_a (v : Word) : (s.withA v).a = v := rfl
@[simp] theorem withA_x (v : Word) : (s.withA v).x = s.x := rfl
@[simp] theorem withA_i1 (v : Word) : (s.withA v).i1 = s.i1 := rfl
@[simp] theorem withA_i2 (v : Word) : (s.withA v).i2 = s.i2 := rfl
@[simp] theorem withA_i3 (v : Word) : (s.withA v).i3 = s.i3 := rfl
@[simp] theorem withA_i4 (v : Word) : (s.withA v).i4 = s.i4 := rfl
@[simp] theorem withA_i5 (v : Word) : (s.withA v).i5 = s.i5 := rfl
@[simp] theorem withA_i6 (v : Word) : (s.withA v).i6 = s.i6 := rfl
@[simp] theorem withA_j (v : Word) : (s.withA v).j = s.j := rfl
@[simp] theorem withA_ov (v : Word) : (s.withA v).ov = s.ov := rfl
@[simp] theorem withA_ci (v : Word) : (s.withA v).ci = s.ci := rfl
@[simp] theorem withA_pc (v : Word) : (s.withA v).pc = s.pc := rfl
@[simp] theorem withA_halted (v : Word) : (s.withA v).halted = s.halted := rfl
@[simp] theorem withA_mem (v : Word) : (s.withA v).mem = s.mem := rfl
@[simp] theorem withA_fieldAlign (v : Word) : (s.withA v).fieldAlign = s.fieldAlign := rfl
@[simp] theorem withA_draws (v : Word) : (s.withA v).draws = s.draws := rfl
@[simp] theorem withA_index (v : Word) (r : IndexReg) : (s.withA v).index r = s.index r := by cases r <;> rfl
@[simp] theorem withA_alu (v : Word) : (s.withA v).alu = { s.alu with a := v } := rfl

/-! withX -/

@[simp] theorem withX_a (v : Word) : (s.withX v).a = s.a := rfl
@[simp] theorem withX_x (v : Word) : (s.withX v).x = v := rfl
@[simp] theorem withX_i1 (v : Word) : (s.withX v).i1 = s.i1 := rfl
@[simp] theorem withX_i2 (v : Word) : (s.withX v).i2 = s.i2 := rfl
@[simp] theorem withX_i3 (v : Word) : (s.withX v).i3 = s.i3 := rfl
@[simp] theorem withX_i4 (v : Word) : (s.withX v).i4 = s.i4 := rfl
@[simp] theorem withX_i5 (v : Word) : (s.withX v).i5 = s.i5 := rfl
@[simp] theorem withX_i6 (v : Word) : (s.withX v).i6 = s.i6 := rfl
@[simp] theorem withX_j (v : Word) : (s.withX v).j = s.j := rfl
@[simp] theorem withX_ov (v : Word) : (s.withX v).ov = s.ov := rfl
@[simp] theorem withX_ci (v : Word) : (s.withX v).ci = s.ci := rfl
@[simp] theorem withX_pc (v : Word) : (s.withX v).pc = s.pc := rfl
@[simp] theorem withX_halted (v : Word) : (s.withX v).halted = s.halted := rfl
@[simp] theorem withX_mem (v : Word) : (s.withX v).mem = s.mem := rfl
@[simp] theorem withX_fieldAlign (v : Word) : (s.withX v).fieldAlign = s.fieldAlign := rfl
@[simp] theorem withX_draws (v : Word) : (s.withX v).draws = s.draws := rfl
@[simp] theorem withX_index (v : Word) (r : IndexReg) : (s.withX v).index r = s.index r := by cases r <;> rfl
@[simp] theorem withX_alu (v : Word) : (s.withX v).alu = { s.alu with x := v } := rfl

/-! withJ -/

@[simp] theorem withJ_a (v : Address) : (s.withJ v).a = s.a := rfl
@[simp] theorem withJ_x (v : Address) : (s.withJ v).x = s.x := rfl
@[simp] theorem withJ_i1 (v : Address) : (s.withJ v).i1 = s.i1 := rfl
@[simp] theorem withJ_i2 (v : Address) : (s.withJ v).i2 = s.i2 := rfl
@[simp] theorem withJ_i3 (v : Address) : (s.withJ v).i3 = s.i3 := rfl
@[simp] theorem withJ_i4 (v : Address) : (s.withJ v).i4 = s.i4 := rfl
@[simp] theorem withJ_i5 (v : Address) : (s.withJ v).i5 = s.i5 := rfl
@[simp] theorem withJ_i6 (v : Address) : (s.withJ v).i6 = s.i6 := rfl
@[simp] theorem withJ_j (v : Address) : (s.withJ v).j = v := rfl
@[simp] theorem withJ_ov (v : Address) : (s.withJ v).ov = s.ov := rfl
@[simp] theorem withJ_ci (v : Address) : (s.withJ v).ci = s.ci := rfl
@[simp] theorem withJ_pc (v : Address) : (s.withJ v).pc = s.pc := rfl
@[simp] theorem withJ_halted (v : Address) : (s.withJ v).halted = s.halted := rfl
@[simp] theorem withJ_mem (v : Address) : (s.withJ v).mem = s.mem := rfl
@[simp] theorem withJ_fieldAlign (v : Address) : (s.withJ v).fieldAlign = s.fieldAlign := rfl
@[simp] theorem withJ_draws (v : Address) : (s.withJ v).draws = s.draws := rfl
@[simp] theorem withJ_index (v : Address) (r : IndexReg) : (s.withJ v).index r = s.index r := by cases r <;> rfl
@[simp] theorem withJ_alu (v : Address) : (s.withJ v).alu = s.alu := rfl

/-! withOv -/

@[simp] theorem withOv_a (b : Bool) : (s.withOv b).a = s.a := rfl
@[simp] theorem withOv_x (b : Bool) : (s.withOv b).x = s.x := rfl
@[simp] theorem withOv_i1 (b : Bool) : (s.withOv b).i1 = s.i1 := rfl
@[simp] theorem withOv_i2 (b : Bool) : (s.withOv b).i2 = s.i2 := rfl
@[simp] theorem withOv_i3 (b : Bool) : (s.withOv b).i3 = s.i3 := rfl
@[simp] theorem withOv_i4 (b : Bool) : (s.withOv b).i4 = s.i4 := rfl
@[simp] theorem withOv_i5 (b : Bool) : (s.withOv b).i5 = s.i5 := rfl
@[simp] theorem withOv_i6 (b : Bool) : (s.withOv b).i6 = s.i6 := rfl
@[simp] theorem withOv_j (b : Bool) : (s.withOv b).j = s.j := rfl
@[simp] theorem withOv_ov (b : Bool) : (s.withOv b).ov = b := rfl
@[simp] theorem withOv_ci (b : Bool) : (s.withOv b).ci = s.ci := rfl
@[simp] theorem withOv_pc (b : Bool) : (s.withOv b).pc = s.pc := rfl
@[simp] theorem withOv_halted (b : Bool) : (s.withOv b).halted = s.halted := rfl
@[simp] theorem withOv_mem (b : Bool) : (s.withOv b).mem = s.mem := rfl
@[simp] theorem withOv_fieldAlign (b : Bool) : (s.withOv b).fieldAlign = s.fieldAlign := rfl
@[simp] theorem withOv_draws (b : Bool) : (s.withOv b).draws = s.draws := rfl
@[simp] theorem withOv_index (b : Bool) (r : IndexReg) : (s.withOv b).index r = s.index r := by cases r <;> rfl
@[simp] theorem withOv_alu (b : Bool) : (s.withOv b).alu = { s.alu with ov := b } := rfl

/-! withCi -/

@[simp] theorem withCi_a (c : Comparison) : (s.withCi c).a = s.a := rfl
@[simp] theorem withCi_x (c : Comparison) : (s.withCi c).x = s.x := rfl
@[simp] theorem withCi_i1 (c : Comparison) : (s.withCi c).i1 = s.i1 := rfl
@[simp] theorem withCi_i2 (c : Comparison) : (s.withCi c).i2 = s.i2 := rfl
@[simp] theorem withCi_i3 (c : Comparison) : (s.withCi c).i3 = s.i3 := rfl
@[simp] theorem withCi_i4 (c : Comparison) : (s.withCi c).i4 = s.i4 := rfl
@[simp] theorem withCi_i5 (c : Comparison) : (s.withCi c).i5 = s.i5 := rfl
@[simp] theorem withCi_i6 (c : Comparison) : (s.withCi c).i6 = s.i6 := rfl
@[simp] theorem withCi_j (c : Comparison) : (s.withCi c).j = s.j := rfl
@[simp] theorem withCi_ov (c : Comparison) : (s.withCi c).ov = s.ov := rfl
@[simp] theorem withCi_ci (c : Comparison) : (s.withCi c).ci = c := rfl
@[simp] theorem withCi_pc (c : Comparison) : (s.withCi c).pc = s.pc := rfl
@[simp] theorem withCi_halted (c : Comparison) : (s.withCi c).halted = s.halted := rfl
@[simp] theorem withCi_mem (c : Comparison) : (s.withCi c).mem = s.mem := rfl
@[simp] theorem withCi_fieldAlign (c : Comparison) : (s.withCi c).fieldAlign = s.fieldAlign := rfl
@[simp] theorem withCi_draws (c : Comparison) : (s.withCi c).draws = s.draws := rfl
@[simp] theorem withCi_index (c : Comparison) (r : IndexReg) : (s.withCi c).index r = s.index r := by cases r <;> rfl
@[simp] theorem withCi_alu (c : Comparison) : (s.withCi c).alu = s.alu := rfl

/-! withPc -/

@[simp] theorem withPc_a (v : Pc) : (s.withPc v).a = s.a := rfl
@[simp] theorem withPc_x (v : Pc) : (s.withPc v).x = s.x := rfl
@[simp] theorem withPc_i1 (v : Pc) : (s.withPc v).i1 = s.i1 := rfl
@[simp] theorem withPc_i2 (v : Pc) : (s.withPc v).i2 = s.i2 := rfl
@[simp] theorem withPc_i3 (v : Pc) : (s.withPc v).i3 = s.i3 := rfl
@[simp] theorem withPc_i4 (v : Pc) : (s.withPc v).i4 = s.i4 := rfl
@[simp] theorem withPc_i5 (v : Pc) : (s.withPc v).i5 = s.i5 := rfl
@[simp] theorem withPc_i6 (v : Pc) : (s.withPc v).i6 = s.i6 := rfl
@[simp] theorem withPc_j (v : Pc) : (s.withPc v).j = s.j := rfl
@[simp] theorem withPc_ov (v : Pc) : (s.withPc v).ov = s.ov := rfl
@[simp] theorem withPc_ci (v : Pc) : (s.withPc v).ci = s.ci := rfl
@[simp] theorem withPc_pc (v : Pc) : (s.withPc v).pc = v := rfl
@[simp] theorem withPc_halted (v : Pc) : (s.withPc v).halted = s.halted := rfl
@[simp] theorem withPc_mem (v : Pc) : (s.withPc v).mem = s.mem := rfl
@[simp] theorem withPc_fieldAlign (v : Pc) : (s.withPc v).fieldAlign = s.fieldAlign := rfl
@[simp] theorem withPc_draws (v : Pc) : (s.withPc v).draws = s.draws := rfl
@[simp] theorem withPc_index (v : Pc) (r : IndexReg) : (s.withPc v).index r = s.index r := by cases r <;> rfl
@[simp] theorem withPc_alu (v : Pc) : (s.withPc v).alu = s.alu := rfl

/-! withHalted -/

@[simp] theorem withHalted_a (b : Bool) : (s.withHalted b).a = s.a := rfl
@[simp] theorem withHalted_x (b : Bool) : (s.withHalted b).x = s.x := rfl
@[simp] theorem withHalted_i1 (b : Bool) : (s.withHalted b).i1 = s.i1 := rfl
@[simp] theorem withHalted_i2 (b : Bool) : (s.withHalted b).i2 = s.i2 := rfl
@[simp] theorem withHalted_i3 (b : Bool) : (s.withHalted b).i3 = s.i3 := rfl
@[simp] theorem withHalted_i4 (b : Bool) : (s.withHalted b).i4 = s.i4 := rfl
@[simp] theorem withHalted_i5 (b : Bool) : (s.withHalted b).i5 = s.i5 := rfl
@[simp] theorem withHalted_i6 (b : Bool) : (s.withHalted b).i6 = s.i6 := rfl
@[simp] theorem withHalted_j (b : Bool) : (s.withHalted b).j = s.j := rfl
@[simp] theorem withHalted_ov (b : Bool) : (s.withHalted b).ov = s.ov := rfl
@[simp] theorem withHalted_ci (b : Bool) : (s.withHalted b).ci = s.ci := rfl
@[simp] theorem withHalted_pc (b : Bool) : (s.withHalted b).pc = s.pc := rfl
@[simp] theorem withHalted_halted (b : Bool) : (s.withHalted b).halted = b := rfl
@[simp] theorem withHalted_mem (b : Bool) : (s.withHalted b).mem = s.mem := rfl
@[simp] theorem withHalted_fieldAlign (b : Bool) : (s.withHalted b).fieldAlign = s.fieldAlign := rfl
@[simp] theorem withHalted_draws (b : Bool) : (s.withHalted b).draws = s.draws := rfl
@[simp] theorem withHalted_index (b : Bool) (r : IndexReg) : (s.withHalted b).index r = s.index r := by cases r <;> rfl
@[simp] theorem withHalted_alu (b : Bool) : (s.withHalted b).alu = s.alu := rfl

/-! withMem -/

@[simp] theorem withMem_a (m : Memory) : (s.withMem m).a = s.a := rfl
@[simp] theorem withMem_x (m : Memory) : (s.withMem m).x = s.x := rfl
@[simp] theorem withMem_i1 (m : Memory) : (s.withMem m).i1 = s.i1 := rfl
@[simp] theorem withMem_i2 (m : Memory) : (s.withMem m).i2 = s.i2 := rfl
@[simp] theorem withMem_i3 (m : Memory) : (s.withMem m).i3 = s.i3 := rfl
@[simp] theorem withMem_i4 (m : Memory) : (s.withMem m).i4 = s.i4 := rfl
@[simp] theorem withMem_i5 (m : Memory) : (s.withMem m).i5 = s.i5 := rfl
@[simp] theorem withMem_i6 (m : Memory) : (s.withMem m).i6 = s.i6 := rfl
@[simp] theorem withMem_j (m : Memory) : (s.withMem m).j = s.j := rfl
@[simp] theorem withMem_ov (m : Memory) : (s.withMem m).ov = s.ov := rfl
@[simp] theorem withMem_ci (m : Memory) : (s.withMem m).ci = s.ci := rfl
@[simp] theorem withMem_pc (m : Memory) : (s.withMem m).pc = s.pc := rfl
@[simp] theorem withMem_halted (m : Memory) : (s.withMem m).halted = s.halted := rfl
@[simp] theorem withMem_mem (m : Memory) : (s.withMem m).mem = m := rfl
@[simp] theorem withMem_fieldAlign (m : Memory) : (s.withMem m).fieldAlign = s.fieldAlign := rfl
@[simp] theorem withMem_draws (m : Memory) : (s.withMem m).draws = s.draws := rfl
@[simp] theorem withMem_index (m : Memory) (r : IndexReg) : (s.withMem m).index r = s.index r := by cases r <;> rfl
@[simp] theorem withMem_alu (m : Memory) : (s.withMem m).alu = s.alu := rfl

/-! withAlu, tookDraw, advancePc -/

@[simp] theorem withAlu_a (r : Alu) : (s.withAlu r).a = r.a := rfl
@[simp] theorem withAlu_x (r : Alu) : (s.withAlu r).x = r.x := rfl
@[simp] theorem withAlu_i1 (r : Alu) : (s.withAlu r).i1 = s.i1 := rfl
@[simp] theorem withAlu_i2 (r : Alu) : (s.withAlu r).i2 = s.i2 := rfl
@[simp] theorem withAlu_i3 (r : Alu) : (s.withAlu r).i3 = s.i3 := rfl
@[simp] theorem withAlu_i4 (r : Alu) : (s.withAlu r).i4 = s.i4 := rfl
@[simp] theorem withAlu_i5 (r : Alu) : (s.withAlu r).i5 = s.i5 := rfl
@[simp] theorem withAlu_i6 (r : Alu) : (s.withAlu r).i6 = s.i6 := rfl
@[simp] theorem withAlu_j (r : Alu) : (s.withAlu r).j = s.j := rfl
@[simp] theorem withAlu_ov (r : Alu) : (s.withAlu r).ov = r.ov := rfl
@[simp] theorem withAlu_ci (r : Alu) : (s.withAlu r).ci = s.ci := rfl
@[simp] theorem withAlu_pc (r : Alu) : (s.withAlu r).pc = s.pc := rfl
@[simp] theorem withAlu_halted (r : Alu) : (s.withAlu r).halted = s.halted := rfl
@[simp] theorem withAlu_mem (r : Alu) : (s.withAlu r).mem = s.mem := rfl
@[simp] theorem withAlu_fieldAlign (r : Alu) : (s.withAlu r).fieldAlign = s.fieldAlign := rfl
@[simp] theorem withAlu_draws (r : Alu) : (s.withAlu r).draws = s.draws := rfl
@[simp] theorem withAlu_index (u : Alu) (r : IndexReg) : (s.withAlu u).index r = s.index r := by cases r <;> rfl
@[simp] theorem withAlu_alu (r : Alu) : (s.withAlu r).alu = r := rfl
@[simp] theorem alu_a : s.alu.a = s.a := rfl
@[simp] theorem alu_x : s.alu.x = s.x := rfl
@[simp] theorem alu_ov : s.alu.ov = s.ov := rfl

@[simp] theorem tookDraw_a : s.tookDraw.a = s.a := rfl
@[simp] theorem tookDraw_x : s.tookDraw.x = s.x := rfl
@[simp] theorem tookDraw_i1 : s.tookDraw.i1 = s.i1 := rfl
@[simp] theorem tookDraw_i2 : s.tookDraw.i2 = s.i2 := rfl
@[simp] theorem tookDraw_i3 : s.tookDraw.i3 = s.i3 := rfl
@[simp] theorem tookDraw_i4 : s.tookDraw.i4 = s.i4 := rfl
@[simp] theorem tookDraw_i5 : s.tookDraw.i5 = s.i5 := rfl
@[simp] theorem tookDraw_i6 : s.tookDraw.i6 = s.i6 := rfl
@[simp] theorem tookDraw_j : s.tookDraw.j = s.j := rfl
@[simp] theorem tookDraw_ov : s.tookDraw.ov = s.ov := rfl
@[simp] theorem tookDraw_ci : s.tookDraw.ci = s.ci := rfl
@[simp] theorem tookDraw_pc : s.tookDraw.pc = s.pc := rfl
@[simp] theorem tookDraw_halted : s.tookDraw.halted = s.halted := rfl
@[simp] theorem tookDraw_mem : s.tookDraw.mem = s.mem := rfl
@[simp] theorem tookDraw_fieldAlign : s.tookDraw.fieldAlign = s.fieldAlign := rfl
@[simp] theorem tookDraw_draws : s.tookDraw.draws = s.draws + 1 := rfl
@[simp] theorem tookDraw_index (r : IndexReg) : s.tookDraw.index r = s.index r := by cases r <;> rfl

@[simp] theorem advancePc_a : s.advancePc.a = s.a := rfl
@[simp] theorem advancePc_x : s.advancePc.x = s.x := rfl
@[simp] theorem advancePc_i1 : s.advancePc.i1 = s.i1 := rfl
@[simp] theorem advancePc_i2 : s.advancePc.i2 = s.i2 := rfl
@[simp] theorem advancePc_i3 : s.advancePc.i3 = s.i3 := rfl
@[simp] theorem advancePc_i4 : s.advancePc.i4 = s.i4 := rfl
@[simp] theorem advancePc_i5 : s.advancePc.i5 = s.i5 := rfl
@[simp] theorem advancePc_i6 : s.advancePc.i6 = s.i6 := rfl
@[simp] theorem advancePc_j : s.advancePc.j = s.j := rfl
@[simp] theorem advancePc_ov : s.advancePc.ov = s.ov := rfl
@[simp] theorem advancePc_ci : s.advancePc.ci = s.ci := rfl
@[simp] theorem advancePc_pc : s.advancePc.pc = s.pc + 1 := rfl
@[simp] theorem advancePc_halted : s.advancePc.halted = s.halted := rfl
@[simp] theorem advancePc_mem : s.advancePc.mem = s.mem := rfl
@[simp] theorem advancePc_fieldAlign : s.advancePc.fieldAlign = s.fieldAlign := rfl
@[simp] theorem advancePc_draws : s.advancePc.draws = s.draws := rfl
@[simp] theorem advancePc_index (r : IndexReg) : s.advancePc.index r = s.index r := by cases r <;> rfl

/-! withIndex -/

@[simp] theorem withIndex_a (r : IndexReg) (v : Address) : (s.withIndex r v).a = s.a := by cases r <;> rfl
@[simp] theorem withIndex_x (r : IndexReg) (v : Address) : (s.withIndex r v).x = s.x := by cases r <;> rfl
@[simp] theorem withIndex_j (r : IndexReg) (v : Address) : (s.withIndex r v).j = s.j := by cases r <;> rfl
@[simp] theorem withIndex_ov (r : IndexReg) (v : Address) : (s.withIndex r v).ov = s.ov := by cases r <;> rfl
@[simp] theorem withIndex_ci (r : IndexReg) (v : Address) : (s.withIndex r v).ci = s.ci := by cases r <;> rfl
@[simp] theorem withIndex_pc (r : IndexReg) (v : Address) : (s.withIndex r v).pc = s.pc := by cases r <;> rfl
@[simp] theorem withIndex_halted (r : IndexReg) (v : Address) : (s.withIndex r v).halted = s.halted := by cases r <;> rfl
@[simp] theorem withIndex_mem (r : IndexReg) (v : Address) : (s.withIndex r v).mem = s.mem := by cases r <;> rfl
@[simp] theorem withIndex_fieldAlign (r : IndexReg) (v : Address) : (s.withIndex r v).fieldAlign = s.fieldAlign := by cases r <;> rfl
@[simp] theorem withIndex_draws (r : IndexReg) (v : Address) : (s.withIndex r v).draws = s.draws := by cases r <;> rfl
@[simp] theorem withIndex_same (r : IndexReg) (v : Address) : (s.withIndex r v).index r = v := by cases r <;> rfl

theorem withIndex_other (r q : IndexReg) (v : Address) (h : q ≠ r) : (s.withIndex r v).index q = s.index q := by
  cases r <;> cases q <;> first | rfl | exact absurd rfl h

end Sys2Proof.Machine
end

