-- ==== Sys2Proof/Laws/Operands.lean ====
section
/-!
SUPPORT. The operand forms and the ends of a step: for each shared operation, once, everything it can answer.
-/

namespace Sys2Proof.Machine

/-! ## Ends of a step -/

@[simp] theorem raise_ne_next (e : Fault) (t : State) : raise e ≠ .next t := by simp [raise]

@[simp] theorem refuse_ne_next (c : Nat) (t : State) : refuse c ≠ .next t := by simp [refuse]

theorem commit_next {o : Answer} {t : State} : commit o = .next t ↔ ∃ u, o = .next u ∧ t = u.advancePc := by
  cases o <;> simp [commit, raise, eq_comm]

theorem fetch_ok {s : State} {w : Word} :
    fetch s = .ok w ↔ s.pc.toNat ≤ 3999 ∧ w = Memory.read s.mem s.pc.toNat := by
  unfold fetch
  split <;> simp [eq_comm] <;> omega

theorem fetch_error {s : State} {e : Fault} :
    fetch s = .error e ↔ 3999 < s.pc.toNat ∧ e = .memoryOutOfBounds s.pc.toNat .fetch := by
  unfold fetch
  split <;> simp [eq_comm] <;> omega

/-! ## Effective address -/

/-- The cases of the index field, with the value each adds. -/
theorem indexSelect_cases (i : Byte) (s : State) :
    (indexSelect i = .unindexed ∧ i.toNat = 0 ∧ indexValue s i = 0) ∨
    (∃ r, indexSelect i = .register r ∧ i.toNat ≠ 0 ∧ i.toNat ≤ 6 ∧ indexValue s i = decodeAddress (s.index r)) ∨
    (indexSelect i = .invalid ∧ 6 < i.toNat) := by
  by_cases h : i.toNat ≤ 6
  · have hi : i = BitVec.ofNat 6 i.toNat := by simp
    rw [hi]
    generalize i.toNat = k at h
    have hk : k = 0 ∨ k = 1 ∨ k = 2 ∨ k = 3 ∨ k = 4 ∨ k = 5 ∨ k = 6 := by omega
    rcases hk with rfl | rfl | rfl | rfl | rfl | rfl | rfl
    · exact .inl ⟨rfl, rfl, rfl⟩
    · exact .inr (.inl ⟨.i1, rfl, by decide, by decide, rfl⟩)
    · exact .inr (.inl ⟨.i2, rfl, by decide, by decide, rfl⟩)
    · exact .inr (.inl ⟨.i3, rfl, by decide, by decide, rfl⟩)
    · exact .inr (.inl ⟨.i4, rfl, by decide, by decide, rfl⟩)
    · exact .inr (.inl ⟨.i5, rfl, by decide, by decide, rfl⟩)
    · exact .inr (.inl ⟨.i6, rfl, by decide, by decide, rfl⟩)
  · refine .inr (.inr ⟨?_, by omega⟩)
    unfold indexSelect
    split <;> first | rfl | omega

/-- EA is formed exactly where the spec's numbers say it is, and its value is base plus index. -/
theorem effectiveAddress_ok {f : Fields} {s : State} :
    (∃ ea, effectiveAddress f s = .ok ea ∧ decodeAddress ea = eaNumber f s) ↔ EaResolves f s := by
  have hb := decodeAddress_bounds f.base
  rcases indexSelect_cases f.index s with ⟨h, h0, hv⟩ | ⟨r, h, h0, h6, hv⟩ | ⟨h, h7⟩
  · simp only [effectiveAddress, h, EaResolves, eaNumber, hv]
    constructor
    · intro _; exact ⟨by omega, by omega⟩
    · intro _; exact ⟨_, rfl, by omega⟩
  · simp only [effectiveAddress, h, EaResolves, eaNumber, hv, indexedAddress]
    split
    · constructor
      · rintro ⟨_, hc, -⟩; exact absurd hc (by simp)
      · rintro ⟨-, hc⟩; omega
    · constructor
      · intro _; exact ⟨h6, by omega⟩
      · intro _; exact ⟨encodeAddress _, rfl, decodeAddress_encodeAddress_exact (by omega)⟩
  · simp only [effectiveAddress, h, EaResolves]
    constructor
    · rintro ⟨_, hc, -⟩; simp at hc
    · rintro ⟨hc, -⟩; omega

/-- A formed EA has the value base plus index. -/
theorem effectiveAddress_value {f : Fields} {s : State} {ea : Address} (h : effectiveAddress f s = .ok ea) :
    decodeAddress ea = eaNumber f s ∧ EaResolves f s := by
  have hb := decodeAddress_bounds f.base
  rcases indexSelect_cases f.index s with ⟨hi, h0, hv⟩ | ⟨r, hi, h0, h6, hv⟩ | ⟨hi, h7⟩
  · simp only [effectiveAddress, hi, Except.ok.injEq] at h
    subst h
    simp only [EaResolves, eaNumber, hv]
    exact ⟨by omega, by omega, by omega⟩
  · simp only [effectiveAddress, hi, indexedAddress] at h
    split at h
    · simp at h
    · simp only [Except.ok.injEq] at h
      subst h
      simp only [EaResolves, eaNumber, hv]
      exact ⟨decodeAddress_encodeAddress_exact (by omega), h6, by omega⟩
  · simp [effectiveAddress, hi] at h

/-- The only faults of the EA unit (R201). -/
theorem effectiveAddress_error {f : Fields} {s : State} {e : Fault} (h : effectiveAddress f s = .error e) :
    (6 < f.index.toNat ∧ e = .badIndexField f.index) ∨
    (f.index.toNat ≤ 6 ∧ 4095 < (eaNumber f s).natAbs ∧ e = .addressOverflow (eaNumber f s)) := by
  rcases indexSelect_cases f.index s with ⟨hi, h0, hv⟩ | ⟨r, hi, h0, h6, hv⟩ | ⟨hi, h7⟩
  · simp [effectiveAddress, hi] at h
  · simp only [effectiveAddress, hi, indexedAddress] at h
    split at h
    · simp only [Except.error.injEq] at h
      subst h
      simp only [eaNumber, hv]
      exact .inr ⟨h6, by omega, trivial⟩
    · simp at h
  · simp only [effectiveAddress, hi, Except.error.injEq] at h
    exact .inl ⟨h7, h.symm⟩

/-! ## Operand read -/

theorem memoryGet_ok {al : FieldAlign} {m : Memory} {a : Address} {field : Byte} {v : Word} :
    memoryGet al m a field = .ok v ↔
      0 ≤ decodeAddress a ∧ decodeAddress a ≤ 3999 ∧
      ∃ r, fieldRange field = some r ∧ v = applyField al (Memory.read m (decodeAddress a).toNat) r := by
  unfold memoryGet
  simp only
  split
  · simp; omega
  · split
    · simp [*]
    · rename_i r hr
      simp only [Except.ok.injEq, hr, Option.some.injEq, exists_eq_left', eq_comm (a := v)]
      constructor
      · intro h; exact ⟨by omega, by omega, h⟩
      · exact fun h => h.2.2

/-- The only faults of the operand read, bounds before field (R53). -/
theorem memoryGet_error {al : FieldAlign} {m : Memory} {a : Address} {field : Byte} {e : Fault}
    (h : memoryGet al m a field = .error e) :
    ((decodeAddress a < 0 ∨ 3999 < decodeAddress a) ∧ e = .memoryOutOfBounds (decodeAddress a) .operand) ∨
    (0 ≤ decodeAddress a ∧ decodeAddress a ≤ 3999 ∧ fieldRange field = none ∧ e = .badFieldSpecification field) := by
  unfold memoryGet at h
  simp only at h
  split at h
  · simp only [Except.error.injEq] at h
    exact .inl ⟨‹_›, h.symm⟩
  · split at h
    · simp only [Except.error.injEq] at h
      exact .inr ⟨by omega, by omega, ‹_›, h.symm⟩
    · simp at h

/-! ## The two wrappers -/

theorem withEA_of_resolves {f : Fields} {s : State} (h : EaResolves f s) (k : Address → Answer) :
    ∃ ea, decodeAddress ea = eaNumber f s ∧ effectiveAddress f s = .ok ea ∧ withEA f s k = k ea := by
  obtain ⟨ea, h1, h2⟩ := effectiveAddress_ok.2 h
  exact ⟨ea, h2, h1, by simp [withEA, h1]⟩

theorem withEA_next {f : Fields} {s : State} {k : Address → Answer} {t : State} (h : withEA f s k = .next t) :
    ∃ ea, effectiveAddress f s = .ok ea ∧ k ea = .next t := by
  unfold withEA at h
  split at h
  · simp at h
  · exact ⟨_, ‹_›, h⟩

/-- The operand is fetched exactly where the spec's numbers say so, and it is the spec's word. -/
theorem fetchOperand_ok {f : Fields} {s : State} {v : Word} :
    fetchOperand f s = .ok v ↔ ∃ r, OperandReadable f s r ∧ v = operandWord f s r := by
  constructor
  · intro h
    unfold fetchOperand at h
    split at h
    · simp at h
    · rename_i ea he
      obtain ⟨hv, hres⟩ := effectiveAddress_value he
      obtain ⟨h0, h1, r, hr, rfl⟩ := memoryGet_ok.1 h
      exact ⟨r, ⟨hres, by omega, by omega, hr⟩, by rw [operandWord, ← hv]⟩
  · rintro ⟨r, ⟨he, h0, h1, hr⟩, rfl⟩
    obtain ⟨ea, he', hv⟩ := effectiveAddress_ok.2 he
    simp only [fetchOperand, he']
    exact memoryGet_ok.2 ⟨by omega, by omega, r, hr, by rw [operandWord, hv]⟩

/-- With a readable operand, the operation runs on the operand word. -/
theorem withOperand_of_readable {f : Fields} {s : State} {r : ByteRange} (h : OperandReadable f s r) (k : Word → Answer) :
    withOperand f s k = k (operandWord f s r) := by
  simp [withOperand, fetchOperand_ok.2 ⟨r, h, rfl⟩]

theorem withOperand_next {f : Fields} {s : State} {k : Word → Answer} {t : State} (h : withOperand f s k = .next t) :
    ∃ r, OperandReadable f s r ∧ k (operandWord f s r) = .next t := by
  unfold withOperand at h
  split at h
  · simp at h
  · rename_i v hv
    obtain ⟨r, hr, rfl⟩ := fetchOperand_ok.1 hv
    exact ⟨r, hr, h⟩

/-- An extension point answers no next state. -/
theorem extensionPoint_ne_next (c : Nat) (f : Fields) (s t : State) : extensionPoint c f s ≠ .next t := by
  intro h
  obtain ⟨_, -, hk⟩ := withEA_next h
  exact refuse_ne_next c t hk

end Sys2Proof.Machine
end

