-- ==== Sys2Proof/Laws/Step.lean ====
section
/-!
SUPPORT. What one instruction and one step can do, said once: every later claim about a next state is a case analysis on these.
-/

namespace Sys2Proof.Machine

/-- Every way an instruction can answer a next state (R146, R171 to R175). -/
theorem exec_next {i : Instr} {s t : State} (h : exec i s = .next t) :
    (∃ f, i = .nop f ∧ EaResolves f s ∧ t = s) ∨
    (∃ f r, i = .add f ∧ OperandReadable f s r ∧ t = s.withAlu (aluAdd (operandWord f s r) s.alu)) ∨
    (∃ f r, i = .sub f ∧ OperandReadable f s r ∧ t = s.withAlu (aluSub (operandWord f s r) s.alu)) ∨
    (∃ f r, i = .mul f ∧ OperandReadable f s r ∧ t = s.withAlu (aluMul (operandWord f s r) s.alu)) ∨
    (∃ f r, i = .div f ∧ OperandReadable f s r ∧ t = divideState (operandWord f s r) s) := by
  cases i
  case nop f =>
    obtain ⟨ea, he, hk⟩ := withEA_next h
    exact .inl ⟨f, rfl, (effectiveAddress_value he).2, by simpa using hk.symm⟩
  case add f =>
    obtain ⟨r, hr, hk⟩ := withOperand_next h
    exact .inr (.inl ⟨f, r, rfl, hr, by simpa using hk.symm⟩)
  case sub f =>
    obtain ⟨r, hr, hk⟩ := withOperand_next h
    exact .inr (.inr (.inl ⟨f, r, rfl, hr, by simpa using hk.symm⟩))
  case mul f =>
    obtain ⟨r, hr, hk⟩ := withOperand_next h
    exact .inr (.inr (.inr (.inl ⟨f, r, rfl, hr, by simpa using hk.symm⟩)))
  case div f =>
    obtain ⟨r, hr, hk⟩ := withOperand_next h
    exact .inr (.inr (.inr (.inr ⟨f, r, rfl, hr, by simpa using hk.symm⟩)))
  all_goals exact absurd h (extensionPoint_ne_next _ _ _ _)

/-- DIV's effect, field by field. -/
theorem divideState_cases (v : Word) (s : State) :
    (divideOverflows s.a v = true ∧
      divideState v s = { s with a := Config.divUndefA s.draws, x := Config.divUndefX s.draws, ov := true,
                                 draws := s.draws + 1 }) ∨
    (divideOverflows s.a v = false ∧
      divideState v s = { s with a := encodeWord ((decodeDoubleword s.a s.x).tdiv (decodeWord v)),
                                 x := mkWord (wordSign s.a) ((decodeDoubleword s.a s.x).natAbs % (decodeWord v).natAbs) }) := by
  by_cases h : divideOverflows s.a v = true
  · exact .inl ⟨h, by simp [divideState, aluDiv, h, State.withAlu, State.tookDraw]⟩
  · simp only [Bool.not_eq_true] at h
    exact .inr ⟨h, by simp [divideState, aluDiv, h, State.withAlu, State.alu]⟩

/-- An instruction that answers a next state leaves everything outside A, X, OV and the draw count, pc included, and never clears OV. -/
theorem exec_frame {i : Instr} {s t : State} (h : exec i s = .next t) :
    SameOutsideAlu s t ∧ t.mem = s.mem ∧ t.pc = s.pc ∧ (s.ov = true → t.ov = true) := by
  rcases exec_next h with ⟨f, -, -, rfl⟩ | ⟨f, r, -, -, rfl⟩ | ⟨f, r, -, -, rfl⟩ | ⟨f, r, -, -, rfl⟩ | ⟨f, r, -, -, rfl⟩
  · exact ⟨⟨fun _ => rfl, rfl, rfl, rfl, rfl, fun _ => rfl⟩, rfl, rfl, id⟩
  · refine ⟨⟨fun r => by simp, rfl, rfl, rfl, rfl, fun _ => rfl⟩, rfl, rfl, fun ho => ?_⟩
    simp [aluAdd, aluAccumulate, overflowAfter, ho]
  · refine ⟨⟨fun r => by simp, rfl, rfl, rfl, rfl, fun _ => rfl⟩, rfl, rfl, fun ho => ?_⟩
    simp [aluSub, aluAccumulate, overflowAfter, ho]
  · exact ⟨⟨fun r => by simp, rfl, rfl, rfl, rfl, fun _ => rfl⟩, rfl, rfl, fun ho => by simpa [aluMul] using ho⟩
  · rcases divideState_cases (operandWord f s r) s with ⟨-, hd⟩ | ⟨-, hd⟩ <;> rw [hd]
    · exact ⟨⟨fun r => by cases r <;> rfl, rfl, rfl, rfl, rfl, fun _ => rfl⟩, rfl, rfl, fun _ => rfl⟩
    · exact ⟨⟨fun r => by cases r <;> rfl, rfl, rfl, rfl, rfl, fun _ => rfl⟩, rfl, rfl, id⟩

/-- A step is: not halted, pc in the memory, and the fetched word's instruction, committed. -/
theorem step_running {s : State} (hh : s.halted = false) (hp : s.pc.toNat ≤ 3999) :
    ∃ i, decode (Memory.read s.mem s.pc.toNat) = .ok i ∧ step s = commit (exec i s) := by
  obtain ⟨i, hi, -, -⟩ := decode_ok (Memory.read s.mem s.pc.toNat)
  refine ⟨i, hi, ?_⟩
  simp [step, hh, fetch_ok.2 ⟨hp, rfl⟩, dispatch, hi]

/-- Everything a step that ends `Ok` did. -/
theorem step_next {s t : State} (h : step s = .next t) :
    s.halted = false ∧ s.pc.toNat ≤ 3999 ∧
    ∃ i u, decode (Memory.read s.mem s.pc.toNat) = .ok i ∧ exec i s = .next u ∧ t = u.advancePc := by
  by_cases hh : s.halted = true
  · simp [step, hh] at h
  · simp only [Bool.not_eq_true] at hh
    by_cases hp : s.pc.toNat ≤ 3999
    · obtain ⟨i, hi, hs⟩ := step_running hh hp
      rw [hs] at h
      obtain ⟨u, hu, rfl⟩ := commit_next.1 h
      exact ⟨hh, hp, i, u, hi, hu, rfl⟩
    · have hf : fetch s = .error (.memoryOutOfBounds s.pc.toNat .fetch) := fetch_error.2 ⟨by omega, rfl⟩
      simp [step, hh, hf] at h

end Sys2Proof.Machine
end

