-- ==== Sys2Proof/Tests/Slice0.lean ====
section
/-!
SUPPORT. The model's own tests. Expected values stand in spec/95_test_vectors.md or are written out from the encoding of
30_encoding.md. After the tests, a witness for the hypotheses of every statement that has some.
-/

namespace Sys2Proof.Tests

open Sys2Proof.Machine

/-! ## WellFormed: an ill-formed term for each check -/

theorem test_illFormed_index : (Instr.nop ⟨0, 7, 0⟩).wellFormed = false := by decide
theorem test_illFormed_field_right : (Instr.add ⟨0, 0, 6⟩).wellFormed = false := by decide
theorem test_illFormed_field_order : (Instr.div ⟨0, 0, 26⟩).wellFormed = false := by decide
theorem test_wellFormed : (Instr.mul ⟨mkAddr true 0, 6, 45⟩).wellFormed = true := by decide
theorem test_wellFormed_ignores_unused_field : (Instr.nop ⟨0, 0, 63⟩).wellFormed = true := by decide

/-! ## Decode: every constructor -/

/-- Words written bit by bit as `S AAAAAAAAAAAA IIIIII FFFFFF CCCCCC` (R70), the opcodes of R76. -/
theorem test_decode_noOp :
    decode 0b1_010011010011_000110_000110_000000#31 = .ok (.nop ⟨mkAddr true 1235, 6, 6⟩) := by decide

/-- Words written bit by bit as `S AAAAAAAAAAAA IIIIII FFFFFF CCCCCC` (R70), the opcodes of R76. -/
theorem test_decode_arithmetic :
    decode 0b0_001100000011_000101_000111_000001#31 = .ok (.add ⟨mkAddr false 771, 5, 7⟩) ∧
    decode 0b0_000100110011_000001_110111_000010#31 = .ok (.sub ⟨mkAddr false 307, 1, 55⟩) ∧
    decode 0b1_001000111100_000011_001011_000011#31 = .ok (.mul ⟨mkAddr true 572, 3, 11⟩) ∧
    decode 0b1_000111100100_000001_011100_000100#31 = .ok (.div ⟨mkAddr true 484, 1, 28⟩) := by decide

/-- Words written bit by bit as `S AAAAAAAAAAAA IIIIII FFFFFF CCCCCC` (R70), the opcodes of R76. -/
theorem test_decode_special :
    decode 0b0_110010110001_000000_011100_000101#31 = .ok (.op5 ⟨mkAddr false 3249, 0, 28⟩) := by decide

/-- Words written bit by bit as `S AAAAAAAAAAAA IIIIII FFFFFF CCCCCC` (R70), the opcodes of R76. -/
theorem test_decode_shift :
    decode 0b0_010001000010_000100_110101_000110#31 = .ok (.op6 ⟨mkAddr false 1090, 4, 53⟩) := by decide

/-- Words written bit by bit as `S AAAAAAAAAAAA IIIIII FFFFFF CCCCCC` (R70), the opcodes of R76. -/
theorem test_decode_move :
    decode 0b0_001111000100_000100_010111_000111#31 = .ok (.op7 ⟨mkAddr false 964, 4, 23⟩) := by decide

/-- Words written bit by bit as `S AAAAAAAAAAAA IIIIII FFFFFF CCCCCC` (R70), the opcodes of R76. -/
theorem test_decode_load :
    decode 0b0_011000000011_000101_001100_001000#31 = .ok (.op8 ⟨mkAddr false 1539, 5, 12⟩) ∧
    decode 0b0_000111101000_000011_111111_001001#31 = .ok (.op9 ⟨mkAddr false 488, 3, 63⟩) ∧
    decode 0b1_101000001101_000111_111010_001010#31 = .ok (.op10 ⟨mkAddr true 2573, 7, 58⟩) ∧
    decode 0b1_100110010111_000011_010111_001011#31 = .ok (.op11 ⟨mkAddr true 2455, 3, 23⟩) ∧
    decode 0b0_001010011110_000100_111111_001100#31 = .ok (.op12 ⟨mkAddr false 670, 4, 63⟩) ∧
    decode 0b1_111001011100_000100_001001_001101#31 = .ok (.op13 ⟨mkAddr true 3676, 4, 9⟩) ∧
    decode 0b0_110101100001_000010_101011_001110#31 = .ok (.op14 ⟨mkAddr false 3425, 2, 43⟩) ∧
    decode 0b0_111110100101_000110_000101_001111#31 = .ok (.op15 ⟨mkAddr false 4005, 6, 5⟩) ∧
    decode 0b0_101000001010_000101_101100_010000#31 = .ok (.op16 ⟨mkAddr false 2570, 5, 44⟩) ∧
    decode 0b1_111010011001_000001_001011_010001#31 = .ok (.op17 ⟨mkAddr true 3737, 1, 11⟩) ∧
    decode 0b1_111100101011_000001_000111_010010#31 = .ok (.op18 ⟨mkAddr true 3883, 1, 7⟩) ∧
    decode 0b1_111001000010_000100_110001_010011#31 = .ok (.op19 ⟨mkAddr true 3650, 4, 49⟩) ∧
    decode 0b1_000010111000_000111_101101_010100#31 = .ok (.op20 ⟨mkAddr true 184, 7, 45⟩) ∧
    decode 0b0_001110111111_000111_000111_010101#31 = .ok (.op21 ⟨mkAddr false 959, 7, 7⟩) ∧
    decode 0b0_100100110010_000010_011111_010110#31 = .ok (.op22 ⟨mkAddr false 2354, 2, 31⟩) ∧
    decode 0b1_110010000010_000111_001010_010111#31 = .ok (.op23 ⟨mkAddr true 3202, 7, 10⟩) := by decide

/-- Words written bit by bit as `S AAAAAAAAAAAA IIIIII FFFFFF CCCCCC` (R70), the opcodes of R76. -/
theorem test_decode_store :
    decode 0b0_111001011111_000110_100011_011000#31 = .ok (.op24 ⟨mkAddr false 3679, 6, 35⟩) ∧
    decode 0b0_110111000110_111111_100011_011001#31 = .ok (.op25 ⟨mkAddr false 3526, 63, 35⟩) ∧
    decode 0b1_101101111011_000110_011101_011010#31 = .ok (.op26 ⟨mkAddr true 2939, 6, 29⟩) ∧
    decode 0b0_001010100111_000010_010011_011011#31 = .ok (.op27 ⟨mkAddr false 679, 2, 19⟩) ∧
    decode 0b0_011101110111_000000_111110_011100#31 = .ok (.op28 ⟨mkAddr false 1911, 0, 62⟩) ∧
    decode 0b0_100001101000_000100_000000_011101#31 = .ok (.op29 ⟨mkAddr false 2152, 4, 0⟩) ∧
    decode 0b0_110101101000_111111_101111_011110#31 = .ok (.op30 ⟨mkAddr false 3432, 63, 47⟩) ∧
    decode 0b1_010000000100_111111_000110_011111#31 = .ok (.op31 ⟨mkAddr true 1028, 63, 6⟩) ∧
    decode 0b1_110010001110_000110_110011_100000#31 = .ok (.op32 ⟨mkAddr true 3214, 6, 51⟩) ∧
    decode 0b1_001101010000_000111_110011_100001#31 = .ok (.op33 ⟨mkAddr true 848, 7, 51⟩) := by decide

/-- Words written bit by bit as `S AAAAAAAAAAAA IIIIII FFFFFF CCCCCC` (R70), the opcodes of R76. -/
theorem test_decode_inputOutput :
    decode 0b0_011000011001_000001_011010_100010#31 = .ok (.op34 ⟨mkAddr false 1561, 1, 26⟩) ∧
    decode 0b1_010100110001_000001_101011_100011#31 = .ok (.op35 ⟨mkAddr true 1329, 1, 43⟩) ∧
    decode 0b0_001101000110_000000_010011_100100#31 = .ok (.op36 ⟨mkAddr false 838, 0, 19⟩) ∧
    decode 0b0_101110100010_000000_001001_100101#31 = .ok (.op37 ⟨mkAddr false 2978, 0, 9⟩) ∧
    decode 0b0_110000001010_000010_100000_100110#31 = .ok (.op38 ⟨mkAddr false 3082, 2, 32⟩) := by decide

/-- Words written bit by bit as `S AAAAAAAAAAAA IIIIII FFFFFF CCCCCC` (R70), the opcodes of R76. -/
theorem test_decode_jump :
    decode 0b1_101110100111_000111_001111_100111#31 = .ok (.op39 ⟨mkAddr true 2983, 7, 15⟩) ∧
    decode 0b0_111110011110_000111_111101_101000#31 = .ok (.op40 ⟨mkAddr false 3998, 7, 61⟩) ∧
    decode 0b1_100111111010_000001_010010_101001#31 = .ok (.op41 ⟨mkAddr true 2554, 1, 18⟩) ∧
    decode 0b0_101011110110_000100_111101_101010#31 = .ok (.op42 ⟨mkAddr false 2806, 4, 61⟩) ∧
    decode 0b0_000010111101_000011_101110_101011#31 = .ok (.op43 ⟨mkAddr false 189, 3, 46⟩) ∧
    decode 0b0_000011011101_111111_100110_101100#31 = .ok (.op44 ⟨mkAddr false 221, 63, 38⟩) ∧
    decode 0b0_100001011011_111111_101110_101101#31 = .ok (.op45 ⟨mkAddr false 2139, 63, 46⟩) ∧
    decode 0b0_101101100001_000011_101010_101110#31 = .ok (.op46 ⟨mkAddr false 2913, 3, 42⟩) ∧
    decode 0b0_011000111110_000011_110011_101111#31 = .ok (.op47 ⟨mkAddr false 1598, 3, 51⟩) := by decide

/-- Words written bit by bit as `S AAAAAAAAAAAA IIIIII FFFFFF CCCCCC` (R70), the opcodes of R76. -/
theorem test_decode_addressTransfer :
    decode 0b0_011001100101_111111_111111_110000#31 = .ok (.op48 ⟨mkAddr false 1637, 63, 63⟩) ∧
    decode 0b1_000011101101_000000_100011_110001#31 = .ok (.op49 ⟨mkAddr true 237, 0, 35⟩) ∧
    decode 0b1_100001001011_000011_101100_110010#31 = .ok (.op50 ⟨mkAddr true 2123, 3, 44⟩) ∧
    decode 0b1_101100101111_000101_001010_110011#31 = .ok (.op51 ⟨mkAddr true 2863, 5, 10⟩) ∧
    decode 0b0_001101000100_000011_111100_110100#31 = .ok (.op52 ⟨mkAddr false 836, 3, 60⟩) ∧
    decode 0b0_101011001110_000011_111101_110101#31 = .ok (.op53 ⟨mkAddr false 2766, 3, 61⟩) ∧
    decode 0b0_111101010111_000101_001010_110110#31 = .ok (.op54 ⟨mkAddr false 3927, 5, 10⟩) ∧
    decode 0b0_110001101110_000011_111101_110111#31 = .ok (.op55 ⟨mkAddr false 3182, 3, 61⟩) := by decide

/-- Words written bit by bit as `S AAAAAAAAAAAA IIIIII FFFFFF CCCCCC` (R70), the opcodes of R76. -/
theorem test_decode_compare :
    decode 0b0_110111100010_000101_001011_111000#31 = .ok (.op56 ⟨mkAddr false 3554, 5, 11⟩) ∧
    decode 0b1_111011010010_000110_001010_111001#31 = .ok (.op57 ⟨mkAddr true 3794, 6, 10⟩) ∧
    decode 0b0_010101110000_000010_000011_111010#31 = .ok (.op58 ⟨mkAddr false 1392, 2, 3⟩) ∧
    decode 0b0_111011100100_000010_111100_111011#31 = .ok (.op59 ⟨mkAddr false 3812, 2, 60⟩) ∧
    decode 0b1_010011111101_111111_010000_111100#31 = .ok (.op60 ⟨mkAddr true 1277, 63, 16⟩) ∧
    decode 0b0_000001110100_000001_010001_111101#31 = .ok (.op61 ⟨mkAddr false 116, 1, 17⟩) ∧
    decode 0b1_011000111011_000011_000011_111110#31 = .ok (.op62 ⟨mkAddr true 1595, 3, 3⟩) ∧
    decode 0b1_011011001111_000100_011110_111111#31 = .ok (.op63 ⟨mkAddr true 1743, 4, 30⟩) := by decide

/-- A number with bit 31 set is no Word (R21, R70). -/
theorem test_decode_rejects_bit31 :
    decodeCarrier 0x8FA00141 = .error (.notAWord 0x8FA00141) ∧ decodeTableWord 32 0x8FA00141 = none ∧
    decodeTableWord 8 0x44 = some (.div ⟨0, 0, 1⟩) := by decide

theorem test_encode : encode (.add ⟨mkAddr true 1, 3, 11⟩) = 0x400432C1#31 := by decide

/-! ## Helpers -/

def faultOf : Answer → Option Fault
  | .fault e => some e
  | _ => none

def refusalOf : Answer → Option Refusal
  | .refused r => some r
  | _ => none

def pcAfter : Answer → Option Nat
  | .next s => some s.pc.toNat
  | _ => none

def aAfter : Answer → Option Word
  | .next s => some s.a
  | _ => none

def range (first last : Nat) : ByteRange :=
  if h : first ≤ last ∧ last ≤ 5 then ⟨first, last, h.1, h.2⟩ else magnitudeBytes

def field (al : FieldAlign) (w : Word) (f : Byte) : Option Word := (fieldRange f).map (applyField al w)

/-- The index registers of L2.5. -/
def indexed : State :=
  { State.reset with i1 := mkAddr false 100, i2 := mkAddr true 10, i3 := mkAddr true 4095,
                     i5 := mkAddr true 0, i6 := mkAddr false 4095 }

/-- The start state of L2.7 with `w` at pc = 10. -/
def running (w : Word) : State :=
  { State.reset with pc := 10, a := wordOfBytes false 0 0 0 0 7, i1 := mkAddr false 100, i2 := mkAddr true 10,
                     mem := Memory.write [] 10 w }

/-- The start state of the second table of L2.8. -/
def adding (al : FieldAlign) (w : Word) : State :=
  { State.reset with a := wordOfBytes false 0 0 0 0 1, fieldAlign := al,
                     mem := Memory.write (Memory.write [] 1000 (wordOfBytes true 1 2 3 4 5)) 0 w }

def sum (a v : Word) (ov : Bool) : Word × Bool :=
  let r := aluAdd v ⟨a, 0, ov⟩
  (r.a, r.ov)

def difference (a v : Word) : Word × Bool :=
  let r := aluSub v ⟨a, 0, false⟩
  (r.a, r.ov)

def product (a v : Word) : Word × Word :=
  let r := aluMul v ⟨a, wordOfBytes false 9 9 9 9 9, false⟩
  (r.a, r.x)

/-- A and X after an ordinary DIV; none on a divide fault. -/
def divided (a x v : Word) : Option (Word × Word) :=
  let r := aluDiv v 0 0 ⟨a, x, false⟩
  if r.ov then none else some (r.a, r.x)

/-! ## The tables of 95_test_vectors.md -/

/-- 95_test_vectors.md L2.1. -/
theorem test_encodeWord :
    encodeWord 0 = wordOfBytes false 0 0 0 0 0 ∧
    encodeWord (-1) = wordOfBytes true 0 0 0 0 1 ∧
    encodeWord 1073741823 = wordOfBytes false 63 63 63 63 63 ∧
    encodeWord (-1073741823) = wordOfBytes true 63 63 63 63 63 ∧
    encodeWord 1073741824 = wordOfBytes false 0 0 0 0 0 ∧
    encodeWord (-1073741824) = wordOfBytes true 0 0 0 0 0 ∧
    encodeWord 2147483646 = wordOfBytes false 63 63 63 63 62 ∧
    encodeWord 4000 = wordOfBytes false 0 0 0 62 32 ∧
    encodeWord (-4000) = wordOfBytes true 0 0 0 62 32 := by decide

/-- 95_test_vectors.md L2.1. -/
theorem test_encodeAddress :
    encodeAddress 0 = mkAddr false 0 ∧
    encodeAddress 4095 = mkAddr false 4095 ∧
    encodeAddress (-4095) = mkAddr true 4095 ∧
    encodeAddress 4096 = mkAddr false 0 ∧
    encodeAddress (-4097) = mkAddr true 1 ∧
    encodeAddress 100 = mkAddr false 100 ∧
    encodeAddress (-5) = mkAddr true 5 ∧
    encodeAddress 5000 = mkAddr false 904 := by decide

/-- 95_test_vectors.md L2.1. -/
theorem test_encodeDoubleword :
    encodeDoubleword 0 = (wordOfBytes false 0 0 0 0 0, wordOfBytes false 0 0 0 0 0) ∧
    encodeDoubleword (-4000) = (wordOfBytes true 0 0 0 0 0, wordOfBytes true 0 0 0 62 32) ∧
    encodeDoubleword 1152921502459363329 = (wordOfBytes false 63 63 63 63 62, wordOfBytes false 0 0 0 0 1) ∧
    encodeDoubleword 1073741824 = (wordOfBytes false 0 0 0 0 1, wordOfBytes false 0 0 0 0 0) ∧
    encodeDoubleword 1152921504606846981 = (wordOfBytes false 0 0 0 0 0, wordOfBytes false 0 0 0 0 5) := by decide

/-- 95_test_vectors.md L2.1. -/
theorem test_decode_numbers :
    decodeDoubleword (wordOfBytes true 0 0 0 0 0) (wordOfBytes false 0 0 0 0 45) = -45 ∧
    decodeDoubleword (wordOfBytes false 0 0 0 0 1) (wordOfBytes true 0 0 0 0 0) = 1073741824 ∧
    decodeDoubleword (wordOfBytes false 0 0 0 0 0) (wordOfBytes false 0 0 0 0 17) = 17 ∧
    decodeWord (wordOfBytes true 0 0 0 0 0) = 0 ∧
    decodeWord (wordOfBytes false 0 0 0 0 0) = 0 ∧
    decodeWord (wordOfBytes true 63 63 63 63 63) = -1073741823 ∧
    decodeAddress (mkAddr true 0) = 0 := by decide

/-- 95_test_vectors.md L2.2. -/
theorem test_extractBytes :
    extractBytes (wordOfBytes true 1 2 3 4 5) (range 0 0) = 1 ∧
    extractBytes (wordOfBytes false 63 0 63 0 63) (range 0 0) = 0 ∧
    extractBytes (wordOfBytes true 1 2 3 4 5) (range 0 1) = 65 ∧
    extractBytes (wordOfBytes false 63 0 63 0 63) (range 0 1) = 63 ∧
    extractBytes (wordOfBytes true 1 2 3 4 5) (range 0 2) = 4162 ∧
    extractBytes (wordOfBytes false 63 0 63 0 63) (range 0 2) = 4032 ∧
    extractBytes (wordOfBytes true 1 2 3 4 5) (range 0 5) = 1091055877 ∧
    extractBytes (wordOfBytes false 63 0 63 0 63) (range 0 5) = 1057222719 ∧
    extractBytes (wordOfBytes true 1 2 3 4 5) (range 1 1) = 1 ∧
    extractBytes (wordOfBytes false 63 0 63 0 63) (range 1 1) = 63 ∧
    extractBytes (wordOfBytes true 1 2 3 4 5) (range 1 5) = 17314053 ∧
    extractBytes (wordOfBytes false 63 0 63 0 63) (range 1 5) = 1057222719 ∧
    extractBytes (wordOfBytes true 1 2 3 4 5) (range 2 4) = 8388 ∧
    extractBytes (wordOfBytes false 63 0 63 0 63) (range 2 4) = 4032 ∧
    extractBytes (wordOfBytes true 1 2 3 4 5) (range 3 3) = 3 ∧
    extractBytes (wordOfBytes false 63 0 63 0 63) (range 3 3) = 63 ∧
    extractBytes (wordOfBytes true 1 2 3 4 5) (range 4 5) = 261 ∧
    extractBytes (wordOfBytes false 63 0 63 0 63) (range 4 5) = 63 ∧
    extractBytes (wordOfBytes true 1 2 3 4 5) (range 5 5) = 5 ∧
    extractBytes (wordOfBytes false 63 0 63 0 63) (range 5 5) = 63 := by decide

/-- 95_test_vectors.md L2.4, both readings of FIELD_ALIGN. -/
theorem test_applyField :
    field .byte (wordOfBytes true 1 2 3 4 5) 5 = some (wordOfBytes true 1 2 3 4 5) ∧
    field .bit (wordOfBytes true 1 2 3 4 5) 5 = some (wordOfBytes true 1 2 3 4 5) ∧
    field .byte (wordOfBytes true 1 2 3 4 5) 13 = some (wordOfBytes false 1 2 3 4 5) ∧
    field .bit (wordOfBytes true 1 2 3 4 5) 13 = some (wordOfBytes false 2 4 6 8 10) ∧
    field .byte (wordOfBytes true 1 2 3 4 5) 0 = some (wordOfBytes true 0 0 0 0 0) ∧
    field .bit (wordOfBytes true 1 2 3 4 5) 0 = some (wordOfBytes true 0 0 0 0 0) ∧
    field .byte (wordOfBytes true 1 2 3 4 5) 1 = some (wordOfBytes true 1 0 0 0 0) ∧
    field .bit (wordOfBytes true 1 2 3 4 5) 1 = some (wordOfBytes true 1 0 0 0 0) ∧
    field .byte (wordOfBytes true 1 2 3 4 5) 2 = some (wordOfBytes true 1 2 0 0 0) ∧
    field .bit (wordOfBytes true 1 2 3 4 5) 2 = some (wordOfBytes true 1 2 0 0 0) ∧
    field .byte (wordOfBytes true 1 2 3 4 5) 9 = some (wordOfBytes false 1 0 0 0 0) ∧
    field .bit (wordOfBytes true 1 2 3 4 5) 9 = some (wordOfBytes false 2 0 0 0 0) ∧
    field .byte (wordOfBytes true 1 2 3 4 5) 45 = some (wordOfBytes false 5 0 0 0 0) ∧
    field .bit (wordOfBytes true 1 2 3 4 5) 45 = some (wordOfBytes false 10 0 0 0 0) ∧
    field .byte (wordOfBytes true 1 2 3 4 5) 29 = some (wordOfBytes false 3 4 5 0 0) ∧
    field .bit (wordOfBytes true 1 2 3 4 5) 29 = some (wordOfBytes false 6 8 10 0 0) ∧
    field .byte (wordOfBytes true 1 2 3 4 5) 20 = some (wordOfBytes false 2 3 4 0 0) ∧
    field .bit (wordOfBytes true 1 2 3 4 5) 20 = some (wordOfBytes false 4 6 8 0 0) ∧
    field .byte (wordOfBytes true 1 2 3 4 5) 27 = some (wordOfBytes false 3 0 0 0 0) ∧
    field .bit (wordOfBytes true 1 2 3 4 5) 27 = some (wordOfBytes false 6 0 0 0 0) ∧
    field .byte (wordOfBytes true 33 2 3 4 5) 5 = some (wordOfBytes true 33 2 3 4 5) ∧
    field .bit (wordOfBytes true 33 2 3 4 5) 5 = some (wordOfBytes true 33 2 3 4 5) ∧
    field .byte (wordOfBytes true 33 2 3 4 5) 13 = some (wordOfBytes false 33 2 3 4 5) ∧
    field .bit (wordOfBytes true 33 2 3 4 5) 13 = some (wordOfBytes true 2 4 6 8 10) ∧
    field .byte (wordOfBytes true 33 2 3 4 5) 0 = some (wordOfBytes true 0 0 0 0 0) ∧
    field .bit (wordOfBytes true 33 2 3 4 5) 0 = some (wordOfBytes true 0 0 0 0 0) ∧
    field .byte (wordOfBytes true 33 2 3 4 5) 9 = some (wordOfBytes false 33 0 0 0 0) ∧
    field .bit (wordOfBytes true 33 2 3 4 5) 9 = some (wordOfBytes true 2 0 0 0 0) ∧
    field .byte (wordOfBytes true 33 2 3 4 5) 45 = some (wordOfBytes false 5 0 0 0 0) ∧
    field .bit (wordOfBytes true 33 2 3 4 5) 45 = some (wordOfBytes false 10 0 0 0 0) := by decide

/-- 95_test_vectors.md L2.5. -/
theorem test_effectiveAddress :
    effectiveAddress (fieldsOf 0x0FA00141#31) indexed = .ok (mkAddr false 1000) ∧
    effectiveAddress (fieldsOf 0x40000141#31) indexed = .ok (mkAddr true 0) ∧
    effectiveAddress (fieldsOf 0x01901141#31) indexed = .ok (mkAddr false 200) ∧
    effectiveAddress (fieldsOf 0x41901141#31) indexed = .ok (mkAddr false 0) ∧
    effectiveAddress (fieldsOf 0x3E6C1141#31) indexed = .ok (mkAddr false 4095) ∧
    effectiveAddress (fieldsOf 0x3E701141#31) indexed = .error (.addressOverflow (4096)) ∧
    effectiveAddress (fieldsOf 0x00142141#31) indexed = .ok (mkAddr true 5) ∧
    effectiveAddress (fieldsOf 0x00003141#31) indexed = .ok (mkAddr true 4095) ∧
    effectiveAddress (fieldsOf 0x40043141#31) indexed = .error (.addressOverflow (-4096)) ∧
    effectiveAddress (fieldsOf 0x40004141#31) indexed = .ok (mkAddr false 0) ∧
    effectiveAddress (fieldsOf 0x40005141#31) indexed = .ok (mkAddr false 0) ∧
    effectiveAddress (fieldsOf 0x001C5141#31) indexed = .ok (mkAddr false 7) ∧
    effectiveAddress (fieldsOf 0x3FFC6141#31) indexed = .error (.addressOverflow (8190)) ∧
    effectiveAddress (fieldsOf 0x3FFC3141#31) indexed = .ok (mkAddr false 0) ∧
    effectiveAddress (fieldsOf 0x00007141#31) indexed = .error (.badIndexField 7) ∧
    effectiveAddress (fieldsOf 0x0003F141#31) indexed = .error (.badIndexField 63) := by decide

/-- 95_test_vectors.md L2.6. -/
theorem test_memoryGet :
    memoryGet .byte [(0, wordOfBytes false 0 0 0 0 9), (3999, wordOfBytes true 1 2 3 4 5)] (mkAddr false 3999) 5 = .ok (wordOfBytes true 1 2 3 4 5) ∧
    memoryGet .byte [(0, wordOfBytes false 0 0 0 0 9), (3999, wordOfBytes true 1 2 3 4 5)] (mkAddr false 3999) 9 = .ok (wordOfBytes false 1 0 0 0 0) ∧
    memoryGet .byte [(0, wordOfBytes false 0 0 0 0 9), (3999, wordOfBytes true 1 2 3 4 5)] (mkAddr false 4000) 5 = .error (.memoryOutOfBounds (4000) .operand) ∧
    memoryGet .byte [(0, wordOfBytes false 0 0 0 0 9), (3999, wordOfBytes true 1 2 3 4 5)] (mkAddr false 4095) 5 = .error (.memoryOutOfBounds (4095) .operand) ∧
    memoryGet .byte [(0, wordOfBytes false 0 0 0 0 9), (3999, wordOfBytes true 1 2 3 4 5)] (mkAddr true 0) 5 = .ok (wordOfBytes false 0 0 0 0 9) ∧
    memoryGet .byte [(0, wordOfBytes false 0 0 0 0 9), (3999, wordOfBytes true 1 2 3 4 5)] (mkAddr true 1) 5 = .error (.memoryOutOfBounds (-1) .operand) ∧
    memoryGet .byte [(0, wordOfBytes false 0 0 0 0 9), (3999, wordOfBytes true 1 2 3 4 5)] (mkAddr true 1) 6 = .error (.memoryOutOfBounds (-1) .operand) ∧
    memoryGet .byte [(0, wordOfBytes false 0 0 0 0 9), (3999, wordOfBytes true 1 2 3 4 5)] (mkAddr false 3999) 6 = .error (.badFieldSpecification 6) ∧
    memoryGet .byte [(0, wordOfBytes false 0 0 0 0 9), (3999, wordOfBytes true 1 2 3 4 5)] (mkAddr false 3999) 26 = .error (.badFieldSpecification 26) ∧
    memoryGet .byte [(0, wordOfBytes false 0 0 0 0 9), (3999, wordOfBytes true 1 2 3 4 5)] (mkAddr false 0) 45 = .ok (wordOfBytes false 9 0 0 0 0) := by decide

/-- 95_test_vectors.md L2.7: NOP ignores F and does not hold EA against the memory. -/
theorem test_step_nop :
    pcAfter (step (running 0x00000000#31)) = some 11 ∧
    pcAfter (step (running 0x3FFC0FC0#31)) = some 11 ∧
    pcAfter (step (running 0x00142000#31)) = some 11 := by decide

/-- 95_test_vectors.md L2.7: one fault a row, the first of the order of R204. -/
theorem test_step_faults :
    faultOf (step (running 0x00007140#31)) = some (.badIndexField 7) ∧
    faultOf (step (running 0x3E801140#31)) = some (.addressOverflow (4100)) ∧
    faultOf (step (running 0x00007148#31)) = some (.badIndexField 7) ∧
    faultOf (step (running 0x3E801148#31)) = some (.addressOverflow (4100)) ∧
    faultOf (step (running 0x00142681#31)) = some (.memoryOutOfBounds (-5) .operand) ∧
    faultOf (step (running 0x0FA00681#31)) = some (.badFieldSpecification 26) ∧
    faultOf (step (running 0x0FA00181#31)) = some (.badFieldSpecification 6) ∧
    faultOf (step (running 0x3E800141#31)) = some (.memoryOutOfBounds (4000) .operand) ∧
    faultOf (step (running 0x3E801681#31)) = some (.addressOverflow (4100)) ∧
    faultOf (step (running 0x00009681#31)) = some (.badIndexField 9) := by decide

/-- 95_test_vectors.md L2.7. -/
theorem test_step_refusals :
    refusalOf (step (running 0x00000085#31)) = some (.notImplemented 5) ∧
    refusalOf (step (running 0x1F400148#31)) = some (.notImplemented 8) ∧
    refusalOf (step (running 0x00142167#31)) = some (.notImplemented 39) ∧
    refusalOf (step (running 0x0000017F#31)) = some (.notImplemented 63) := by decide

/-- 95_test_vectors.md L2.8. -/
theorem test_add :
    sum (wordOfBytes false 0 0 0 0 10) (wordOfBytes false 0 0 0 0 5) false = (wordOfBytes false 0 0 0 0 15, false) ∧
    sum (wordOfBytes false 63 63 63 63 63) (wordOfBytes false 0 0 0 0 1) false = (wordOfBytes false 0 0 0 0 0, true) ∧
    sum (wordOfBytes true 0 0 0 0 0) (wordOfBytes false 0 0 0 0 0) false = (wordOfBytes false 0 0 0 0 0, false) ∧
    sum (wordOfBytes true 0 0 0 0 0) (wordOfBytes true 0 0 0 0 0) false = (wordOfBytes false 0 0 0 0 0, false) ∧
    sum (wordOfBytes true 0 0 0 0 5) (wordOfBytes false 0 0 0 0 5) false = (wordOfBytes false 0 0 0 0 0, false) ∧
    sum (wordOfBytes true 63 63 63 63 63) (wordOfBytes true 0 0 0 0 1) false = (wordOfBytes true 0 0 0 0 0, true) ∧
    sum (wordOfBytes false 63 63 63 63 63) (wordOfBytes false 63 63 63 63 63) false = (wordOfBytes false 63 63 63 63 62, true) ∧
    sum (wordOfBytes true 63 63 63 63 63) (wordOfBytes true 63 63 63 63 63) false = (wordOfBytes true 63 63 63 63 62, true) ∧
    sum (wordOfBytes true 0 0 0 0 7) (wordOfBytes false 0 0 0 0 3) false = (wordOfBytes true 0 0 0 0 4, false) ∧
    sum (wordOfBytes false 0 0 0 0 0) (wordOfBytes false 63 63 63 63 63) false = (wordOfBytes false 63 63 63 63 63, false) ∧
    sum (wordOfBytes false 0 0 0 0 1) (wordOfBytes false 0 0 0 0 1) true = (wordOfBytes false 0 0 0 0 2, true) := by decide

/-- 95_test_vectors.md L2.8, the field applied to the operand, both readings. -/
theorem test_add_fields :
    aAfter (step (adding .byte 0x0FA00141#31)) = some (wordOfBytes true 1 2 3 4 4) ∧
    aAfter (step (adding .bit 0x0FA00141#31)) = some (wordOfBytes true 1 2 3 4 4) ∧
    aAfter (step (adding .byte 0x0FA00241#31)) = some (wordOfBytes false 1 0 0 0 1) ∧
    aAfter (step (adding .bit 0x0FA00241#31)) = some (wordOfBytes false 2 0 0 0 1) ∧
    aAfter (step (adding .byte 0x0FA00341#31)) = some (wordOfBytes false 1 2 3 4 6) ∧
    aAfter (step (adding .bit 0x0FA00341#31)) = some (wordOfBytes false 2 4 6 8 11) ∧
    aAfter (step (adding .byte 0x0FA00001#31)) = some (wordOfBytes false 0 0 0 0 1) ∧
    aAfter (step (adding .bit 0x0FA00001#31)) = some (wordOfBytes false 0 0 0 0 1) ∧
    aAfter (step (adding .byte 0x0FA00741#31)) = some (wordOfBytes false 3 4 5 0 1) ∧
    aAfter (step (adding .bit 0x0FA00741#31)) = some (wordOfBytes false 6 8 10 0 1) := by decide

/-- 95_test_vectors.md L2.9. -/
theorem test_sub :
    difference (wordOfBytes false 0 0 0 0 10) (wordOfBytes false 0 0 0 0 3) = (wordOfBytes true 0 0 0 0 7, false) ∧
    difference (wordOfBytes false 0 0 0 0 3) (wordOfBytes false 0 0 0 0 10) = (wordOfBytes false 0 0 0 0 7, false) ∧
    difference (wordOfBytes false 0 0 0 0 5) (wordOfBytes false 0 0 0 0 5) = (wordOfBytes false 0 0 0 0 0, false) ∧
    difference (wordOfBytes true 0 0 0 0 0) (wordOfBytes true 0 0 0 0 0) = (wordOfBytes false 0 0 0 0 0, false) ∧
    difference (wordOfBytes false 63 63 63 63 63) (wordOfBytes true 63 63 63 63 63) = (wordOfBytes true 63 63 63 63 62, true) ∧
    difference (wordOfBytes true 63 63 63 63 63) (wordOfBytes false 63 63 63 63 63) = (wordOfBytes false 63 63 63 63 62, true) ∧
    difference (wordOfBytes true 63 63 63 63 63) (wordOfBytes false 0 0 0 0 1) = (wordOfBytes false 0 0 0 0 0, true) ∧
    difference (wordOfBytes false 0 0 0 0 0) (wordOfBytes true 0 0 0 0 4) = (wordOfBytes true 0 0 0 0 4, false) ∧
    difference (wordOfBytes false 0 0 0 0 1) (wordOfBytes true 63 63 63 63 63) = (wordOfBytes true 0 0 0 0 0, true) := by decide

/-- 95_test_vectors.md L2.10. -/
theorem test_mul :
    product (wordOfBytes false 0 0 0 12 32) (wordOfBytes true 0 0 0 0 5) = (wordOfBytes true 0 0 0 0 0, wordOfBytes true 0 0 0 62 32) ∧
    product (wordOfBytes true 0 0 0 0 5) (wordOfBytes false 0 0 0 0 0) = (wordOfBytes false 0 0 0 0 0, wordOfBytes false 0 0 0 0 0) ∧
    product (wordOfBytes true 0 0 0 0 0) (wordOfBytes false 0 0 0 0 7) = (wordOfBytes false 0 0 0 0 0, wordOfBytes false 0 0 0 0 0) ∧
    product (wordOfBytes false 63 63 63 63 63) (wordOfBytes false 63 63 63 63 63) = (wordOfBytes false 63 63 63 63 62, wordOfBytes false 0 0 0 0 1) ∧
    product (wordOfBytes true 63 63 63 63 63) (wordOfBytes false 63 63 63 63 63) = (wordOfBytes true 63 63 63 63 62, wordOfBytes true 0 0 0 0 1) ∧
    product (wordOfBytes false 0 0 8 0 0) (wordOfBytes false 0 0 8 0 0) = (wordOfBytes false 0 0 0 0 1, wordOfBytes false 0 0 0 0 0) ∧
    product (wordOfBytes true 0 0 0 0 3) (wordOfBytes true 0 0 0 0 4) = (wordOfBytes false 0 0 0 0 0, wordOfBytes false 0 0 0 0 12) ∧
    product (wordOfBytes false 32 0 0 0 0) (wordOfBytes false 0 0 0 0 2) = (wordOfBytes false 0 0 0 0 1, wordOfBytes false 0 0 0 0 0) ∧
    product (wordOfBytes false 0 0 0 0 1) (wordOfBytes true 0 0 0 0 1) = (wordOfBytes true 0 0 0 0 0, wordOfBytes true 0 0 0 0 1) := by decide

/-- 95_test_vectors.md L2.11, the ordinary rows. -/
theorem test_div :
    divided (wordOfBytes false 0 0 0 0 0) (wordOfBytes false 0 0 0 0 17) (wordOfBytes false 0 0 0 0 5) = some (wordOfBytes false 0 0 0 0 3, wordOfBytes false 0 0 0 0 2) ∧
    divided (wordOfBytes false 0 0 0 0 0) (wordOfBytes false 0 0 0 0 17) (wordOfBytes true 0 0 0 0 5) = some (wordOfBytes true 0 0 0 0 3, wordOfBytes false 0 0 0 0 2) ∧
    divided (wordOfBytes true 0 0 0 0 0) (wordOfBytes false 0 0 0 0 17) (wordOfBytes false 0 0 0 0 5) = some (wordOfBytes true 0 0 0 0 3, wordOfBytes true 0 0 0 0 2) ∧
    divided (wordOfBytes true 0 0 0 0 0) (wordOfBytes true 0 0 0 0 17) (wordOfBytes true 0 0 0 0 5) = some (wordOfBytes false 0 0 0 0 3, wordOfBytes true 0 0 0 0 2) ∧
    divided (wordOfBytes true 0 0 0 0 0) (wordOfBytes false 0 0 0 0 7) (wordOfBytes false 0 0 0 0 5) = some (wordOfBytes true 0 0 0 0 1, wordOfBytes true 0 0 0 0 2) ∧
    divided (wordOfBytes true 0 0 0 0 0) (wordOfBytes false 0 0 0 0 3) (wordOfBytes false 0 0 0 0 5) = some (wordOfBytes false 0 0 0 0 0, wordOfBytes true 0 0 0 0 3) ∧
    divided (wordOfBytes true 0 0 0 0 0) (wordOfBytes false 0 0 0 0 0) (wordOfBytes false 0 0 0 0 5) = some (wordOfBytes false 0 0 0 0 0, wordOfBytes true 0 0 0 0 0) ∧
    divided (wordOfBytes false 0 0 0 0 1) (wordOfBytes false 0 0 0 0 0) (wordOfBytes false 0 0 0 0 2) = some (wordOfBytes false 32 0 0 0 0, wordOfBytes false 0 0 0 0 0) ∧
    divided (wordOfBytes false 0 0 0 0 1) (wordOfBytes false 0 0 0 0 5) (wordOfBytes false 0 0 0 0 3) = some (wordOfBytes false 21 21 21 21 23, wordOfBytes false 0 0 0 0 0) ∧
    divided (wordOfBytes false 0 0 0 0 4) (wordOfBytes false 0 0 0 0 0) (wordOfBytes false 0 0 0 0 5) = some (wordOfBytes false 51 12 51 12 51, wordOfBytes false 0 0 0 0 1) ∧
    divided (wordOfBytes false 63 63 63 63 62) (wordOfBytes false 63 63 63 63 63) (wordOfBytes false 63 63 63 63 63) = some (wordOfBytes false 63 63 63 63 63, wordOfBytes false 63 63 63 63 62) ∧
    divided (wordOfBytes true 63 63 63 63 62) (wordOfBytes false 63 63 63 63 63) (wordOfBytes false 63 63 63 63 63) = some (wordOfBytes true 63 63 63 63 63, wordOfBytes true 63 63 63 63 62) ∧
    divided (wordOfBytes false 0 0 0 0 0) (wordOfBytes false 0 0 0 0 9) (wordOfBytes false 0 0 0 0 3) = some (wordOfBytes false 0 0 0 0 3, wordOfBytes false 0 0 0 0 0) := by decide

/-- 95_test_vectors.md L2.11, the divide faults: OV set, A and X free, the step still `Ok`. -/
theorem test_div_fault :
    divided (wordOfBytes false 0 0 0 0 5) (wordOfBytes false 0 0 0 0 0) (wordOfBytes false 0 0 0 0 5) = none ∧
    divided (wordOfBytes false 0 0 0 0 0) (wordOfBytes false 0 0 0 0 1) (wordOfBytes true 0 0 0 0 0) = none ∧
    divided (wordOfBytes false 0 0 0 0 0) (wordOfBytes false 0 0 0 0 1) (wordOfBytes false 0 0 0 0 0) = none ∧
    divided (wordOfBytes false 63 63 63 63 63) (wordOfBytes false 0 0 0 0 0) (wordOfBytes false 63 63 63 63 63) = none := by decide

/-- 95_test_vectors.md L2.7, the last two rows. -/
theorem test_step_no_fetch :
    faultOf (step { running 0 with pc := 4000 }) = some (.memoryOutOfBounds 4000 .fetch) ∧
    faultOf (step { running 0 with halted := true }) = some .noStepHalted := by decide

/-! ## Witnesses

For each statement of Obligations.lean that has hypotheses, inputs that meet them; where it has several clauses, inputs at the
edges of each. -/

/-- A running block about to execute instruction `i` at pc = 10, one operand word at 3999 and one at 0. -/
def about (i : Instr) (a v : Word) : State :=
  { State.reset with pc := 10, a := a, i1 := mkAddr false 100, i2 := mkAddr true 10,
                     mem := Memory.write (Memory.write (Memory.write [] 3999 v) 0 v) 10 (encode i) }

/-- Fields with base `b`, no index, the whole word. -/
def plain (b : Address) : Fields := ⟨b, 0, 5⟩

def minusZero : Word := mkWord true 0
def largest : Word := mkWord false (2 ^ 30 - 1)

theorem witness_FieldSpecificationValidity : (5 : Byte) = 5 ∧ fieldRange 5 = some (range 0 5) := by decide

theorem witness_ConversionsRoundTrip :
    (-1073741823 : Int).natAbs ≤ 2 ^ 30 - 1 ∧ (-4095 : Int).natAbs ≤ 4095 ∧ largest ≠ mkWord true 0 ∧
    mkWord false 0 ≠ mkWord true 0 := by decide

theorem witness_DoublewordRoundTrip : (-(2 ^ 60 - 1) : Int).natAbs ≤ 2 ^ 60 - 1 := by decide

theorem witness_byte_ranges :
    ((range 0 0).first = 0 ∧ (range 0 0).last = 0) ∧ ((range 0 5).first = 0 ∧ (range 0 5).last = 5) ∧
    (1 ≤ (range 1 5).first ∧ (range 1 5).last = 5) ∧ (1 ≤ (range 5 5).first ∧ (range 5 5).last = 5) := by decide

theorem witness_EffectiveAddressRule :
    (eaNumber ⟨mkAddr false 3995, 1, 5⟩ indexed).natAbs = 4095 ∧
    (eaNumber ⟨mkAddr false 3996, 1, 5⟩ indexed).natAbs = 4096 ∧
    (eaNumber ⟨mkAddr true 0, 6, 5⟩ indexed).natAbs = 4095 ∧
    (eaNumber ⟨mkAddr true 1, 3, 5⟩ indexed).natAbs = 4096 ∧
    (0 : Byte).toNat = 0 ∧ 1 ≤ (1 : Byte).toNat ∧ (6 : Byte).toNat ≤ 6 ∧ 7 ≤ (7 : Byte).toNat ∧ 7 ≤ (63 : Byte).toNat := by
  decide

/-- A step that ends `Ok`, from a state in canonical form that has the invariant, with OV set. -/
theorem witness_ok_step :
    (∃ t, step { about (.nop (plain 0)) 0 0 with ov := true } = .next t) ∧
    ({ about (.nop (plain 0)) 0 0 with ov := true } : State).Inv := ⟨⟨_, rfl⟩, by unfold State.Inv; decide⟩

theorem witness_MemoryGetRule :
    decodeAddress (mkAddr true 1) < 0 ∧ 3999 < decodeAddress (mkAddr false 4000) ∧
    (0 ≤ decodeAddress (mkAddr true 0) ∧ decodeAddress (mkAddr true 0) ≤ 3999) ∧
    (0 ≤ decodeAddress (mkAddr false 3999) ∧ decodeAddress (mkAddr false 3999) ≤ 3999) ∧
    5 < (6 : Byte).toNat % 8 ∧ (8 : Byte).toNat % 8 < (8 : Byte).toNat / 8 ∧ fieldRange 45 = some (range 5 5) := by decide

theorem witness_FetchAboveMemoryFaults :
    ((running 0).halted = false ∧ 3999 < ({ running 0 with pc := 4000 } : State).pc.toNat) ∧
    (({ running 0 with pc := 3999 } : State).pc.toNat = 3999 ∧ ∃ t, step { running 0 with pc := 3999 } = .next t) :=
  ⟨by decide, by decide, ⟨_, rfl⟩⟩

theorem witness_OnlyTheHostWritesMemory :
    (∀ k, Element.a ≠ .word k) ∧ Memory.wf (running 1).mem = true := ⟨by simp, by decide⟩

/-- Two memories that agree at pc and at EA and nowhere else. -/
theorem witness_StepReadsAtMostTwoWords :
    let s := about (.add (plain (mkAddr false 3999))) 1 2
    let m := Memory.write (Memory.write (Memory.write [] 3999 2) 0 9) 10 (encode (.add (plain (mkAddr false 3999))))
    Memory.read m s.pc.toNat = Memory.read s.mem s.pc.toNat ∧
    eaNumber (fieldsOf (Memory.read s.mem s.pc.toNat)) s = 3999 ∧
    Memory.read m (eaNumber (fieldsOf (Memory.read s.mem s.pc.toNat)) s).toNat =
      Memory.read s.mem (eaNumber (fieldsOf (Memory.read s.mem s.pc.toNat)) s).toNat ∧
    Memory.read m 0 ≠ Memory.read s.mem 0 := by decide

/-- One state for each clause: the instruction answers a next state, a fault, a refusal. -/
theorem witness_StepExecutesTheDecodedInstruction :
    (AboutToExecute (about (.add (plain (mkAddr false 3999))) 1 2) (.add (plain (mkAddr false 3999))) ∧
      ∃ t, exec (.add (plain (mkAddr false 3999))) (about (.add (plain (mkAddr false 3999))) 1 2) = .next t) ∧
    (AboutToExecute (about (.add (plain (mkAddr false 4000))) 1 2) (.add (plain (mkAddr false 4000))) ∧
      ∃ e, exec (.add (plain (mkAddr false 4000))) (about (.add (plain (mkAddr false 4000))) 1 2) = .fault e) ∧
    (AboutToExecute (about (.op5 (plain 0)) 1 2) (.op5 (plain 0)) ∧
      ∃ r, exec (.op5 (plain 0)) (about (.op5 (plain 0)) 1 2) = .refused r) :=
  ⟨⟨by unfold AboutToExecute; decide, _, rfl⟩, ⟨by unfold AboutToExecute; decide, _, rfl⟩,
    ⟨by unfold AboutToExecute; decide, _, rfl⟩⟩

theorem witness_HaltedBlockTakesNoStep : ({ running 0 with halted := true } : State).halted = true := rfl

theorem witness_OkStepAdvancesPcByOne : 39 ≤ (Instr.op39 (plain 0)).opcode ∧ (Instr.op47 (plain 0)).opcode ≤ 47 := by decide

/-- The premises of each of the eight checks, at the edges of their ranges. -/
theorem witness_ChecksInTheirOrder :
    let sum (b : Address) (i : Byte) := (eaNumber ⟨b, i, 5⟩ (running 0)).natAbs
    let ea (b : Address) (i : Byte) := eaNumber ⟨b, i, 5⟩ (running 0)
    (running 0).halted = false ∧ (running 0).pc.toNat ≤ 3999 ∧
    6 < (fieldsOf (encode (.nop ⟨0, 7, 0⟩))).index.toNat ∧
    (fieldsOf (encode (.nop ⟨0, 6, 0⟩))).index.toNat ≤ 6 ∧
    4095 < sum (mkAddr false 3996) 1 ∧ sum (mkAddr false 3995) 1 ≤ 4095 ∧
    5 ≤ opcodeOf (encode (.op5 (plain 0))) ∧ 5 ≤ opcodeOf (encode (.op63 (plain 0))) ∧
    opcodeOf (encode (.nop (plain 0))) = 0 ∧
    1 ≤ opcodeOf (encode (.add (plain 0))) ∧ opcodeOf (encode (.div (plain 0))) ≤ 4 ∧
    ea (mkAddr false 9) 2 < 0 ∧ 3999 < ea (mkAddr false 4000) 0 ∧
    0 ≤ ea (mkAddr false 10) 2 ∧ ea (mkAddr false 3899) 1 ≤ 3999 ∧
    fieldRange 26 = none ∧ fieldRange 5 ≠ none := by decide

theorem witness_StoppedRunKeepsTheState :
    (∃ e, step { running 0 with pc := 4000 } = .fault e) ∧ (∃ r, step (running 0x00000008#31) = .refused r) ∧
    (∃ t, step (running 0) = .next t) := ⟨⟨_, rfl⟩, ⟨_, rfl⟩, ⟨_, rfl⟩⟩

theorem witness_RunKeepsItsStop : ∃ t w, run 1 (running 0x00000008#31) = .stopped t w := ⟨_, _, rfl⟩

/-- 3998 and 3999 hold NOPs (nothing is listed there), as for every state whose memory is +0 from pc up. -/
theorem witness_NopsRunToTheTopOfMemory :
    let s : State := { running 0 with pc := 3998, mem := [] }
    s.halted = false ∧ s.pc.toNat ≤ 4000 ∧
    ∀ n, s.pc.toNat ≤ n → n ≤ 3999 → opcodeOf (Memory.read s.mem n) = 0 ∧ (fieldsOf (Memory.read s.mem n)).index = 0 :=
  ⟨rfl, by decide, fun _ _ _ =>
    (by decide : opcodeOf Memory.unlisted = 0 ∧ (fieldsOf Memory.unlisted).index = 0)⟩

/-- NOP with EA −5 and with EA 4095: resolved, outside the memory. -/
theorem witness_NopOnlyAdvancesPc :
    (EaResolves ⟨mkAddr false 5, 2, 63⟩ (about (.nop ⟨mkAddr false 5, 2, 63⟩) 1 2) ∧
      AboutToExecute (about (.nop ⟨mkAddr false 5, 2, 63⟩) 1 2) (.nop ⟨mkAddr false 5, 2, 63⟩)) ∧
    EaResolves ⟨mkAddr false 4095, 0, 0⟩ (running 0) := by
  unfold EaResolves AboutToExecute; decide

theorem witness_ExtensionPointsAreRefused :
    (5 ≤ (Instr.op5 ⟨mkAddr false 3995, 1, 0⟩).opcode ∧ EaResolves ⟨mkAddr false 3995, 1, 0⟩ (running 0)) ∧
    (5 ≤ (Instr.op63 ⟨0, 7, 0⟩).opcode ∧ 6 < (Instr.op63 ⟨0, 7, 0⟩).fields.index.toNat) ∧
    (5 ≤ (Instr.op63 ⟨mkAddr false 3996, 1, 0⟩).opcode ∧ (Instr.op63 ⟨mkAddr false 3996, 1, 0⟩).fields.index.toNat ≤ 6 ∧
      4095 < (eaNumber ⟨mkAddr false 3996, 1, 0⟩ (running 0)).natAbs) := by unfold EaResolves; decide

/-- A readable operand at the top of memory, at −0, and through an index; an operand fault of each kind. -/
theorem witness_operands :
    OperandReadable (plain (mkAddr false 3999)) (running 0) (range 0 5) ∧
    OperandReadable (plain (mkAddr true 0)) (running 0) (range 0 5) ∧
    OperandReadable ⟨mkAddr false 3899, 1, 45⟩ (running 0) (range 5 5) ∧
    fetchOperand (plain (mkAddr false 4000)) (running 0) = .error (.memoryOutOfBounds 4000 .operand) ∧
    fetchOperand ⟨0, 0, 6⟩ (running 0) = .error (.badFieldSpecification 6) ∧
    fetchOperand ⟨0, 7, 5⟩ (running 0) = .error (.badIndexField 7) ∧
    fetchOperand ⟨mkAddr false 3996, 1, 5⟩ (running 0) = .error (.addressOverflow 4096) := by
  unfold OperandReadable EaResolves; decide

/-- ADD and SUB with the largest result that fits and the smallest that does not. -/
theorem witness_AddSub_overflow :
    let f := plain (mkAddr false 3999)
    (OperandReadable f (about (.add f) largest 1) (range 0 5) ∧
      AboutToExecute (about (.add f) largest 1) (.add f) ∧
      (decodeWord (operandWord f (about (.add f) largest 1) (range 0 5)) + decodeWord largest).natAbs = 2 ^ 30) ∧
    (OperandReadable f (about (.sub f) largest (mkWord true 1)) (range 0 5) ∧
      AboutToExecute (about (.sub f) largest (mkWord true 1)) (.sub f) ∧
      (decodeWord (operandWord f (about (.sub f) largest (mkWord true 1)) (range 0 5)) - decodeWord largest).natAbs = 2 ^ 30) ∧
    (decodeWord (operandWord f (about (.add f) largest 0) (range 0 5)) + decodeWord largest).natAbs = 2 ^ 30 - 1 := by
  unfold OperandReadable EaResolves AboutToExecute; decide

/-- DIV with A's magnitude one below v's: the ordinary case. -/
theorem witness_Div_ordinary :
    let f := plain (mkAddr false 3999)
    OperandReadable f (about (.div f) 4 5) (range 0 5) ∧ operandWord f (about (.div f) 4 5) (range 0 5) = 5 ∧
    wordMag (about (.div f) 4 5).a < wordMag (5 : Word) ∧ ∃ t, exec (.div f) (about (.div f) 4 5) = .next t :=
  ⟨by unfold OperandReadable EaResolves; decide, by decide, by decide, _, rfl⟩

/-- DIV by −0, and with A's magnitude equal to v's: the divide case. -/
theorem witness_Div_fault :
    let f := plain (mkAddr false 3999)
    (OperandReadable f (about (.div f) 0 minusZero) (range 0 5) ∧ AboutToExecute (about (.div f) 0 minusZero) (.div f) ∧
      wordMag (operandWord f (about (.div f) 0 minusZero) (range 0 5)) = 0) ∧
    (OperandReadable f (about (.div f) 5 5) (range 0 5) ∧
      wordMag (operandWord f (about (.div f) 5 5) (range 0 5)) ≤ wordMag (about (.div f) 5 5).a) := by
  unfold OperandReadable EaResolves AboutToExecute; decide

theorem witness_ZeroResultsArePlusZero :
    let f := plain (mkAddr false 3999)
    OperandReadable f (about (.add f) minusZero minusZero) (range 0 5) ∧
    operandWord f (about (.add f) minusZero minusZero) (range 0 5) = minusZero ∧
    decodeWord minusZero + decodeWord minusZero = 0 ∧ decodeWord minusZero - decodeWord minusZero = 0 ∧
    decodeWord minusZero * decodeWord minusZero = 0 := by unfold OperandReadable EaResolves; decide

/-- Each of the five instructions that complete answers a next state somewhere. -/
theorem witness_FrameOfEveryInstruction :
    (∃ t, exec (.nop (plain 0)) (running 0) = .next t) ∧ (∃ t, exec (.add (plain 0)) (running 0) = .next t) ∧
    (∃ t, exec (.sub (plain 0)) (running 0) = .next t) ∧ (∃ t, exec (.mul (plain 0)) (running 0) = .next t) ∧
    (∃ t, exec (.div (plain 0)) (running 0) = .next t) := ⟨⟨_, rfl⟩, ⟨_, rfl⟩, ⟨_, rfl⟩, ⟨_, rfl⟩, ⟨_, rfl⟩⟩

theorem witness_InstructionMayReadItsOwnWord :
    let i : Instr := .add (plain (mkAddr false 10))
    AboutToExecute (about i 1 2) i ∧ OperandReadable i.fields (about i 1 2) (range 0 5) ∧
    eaNumber i.fields (about i 1 2) = (about i 1 2).pc.toNat := by
  unfold AboutToExecute OperandReadable EaResolves; decide

theorem witness_HostReadsBackWhatItWrote :
    Memory.wf (running 1).mem = true ∧ (Element.word 0 ≠ .word 3999) ∧ (Element.index .i1 ≠ .index .i6) ∧ Element.a ≠ .ci := by
  decide

theorem witness_PlacedWordRunsNext :
    Memory.wf (running 1).mem = true ∧ decodeTableWord 32 0x0FA00141 = some (.add (plain (mkAddr false 1000))) := by decide

end Sys2Proof.Tests
end

/-! ## Index registers, overflow flag and comparison indicator -/

namespace Sys2Proof.Machine

/-! ### What a step keeps -/

/-- A step that ends `Ok` leaves everything outside A, X, OV, pc and the draw count, advances pc, and never clears OV. -/
theorem step_frame {s t : State} (h : step s = .next t) :
    SameOutsideAlu s t ∧ t.mem = s.mem ∧ t.pc = s.pc + 1 ∧ (s.ov = true → t.ov = true) := by
  obtain ⟨-, -, i, u, -, hu, rfl⟩ := step_next h
  obtain ⟨⟨hindex, hj, hci, hhalted, halign, hread⟩, hmem, hpc, hov⟩ := exec_frame hu
  exact ⟨⟨fun r => by simp [hindex], hj, hci, hhalted, halign, hread⟩, hmem, by simp [hpc], hov⟩

/-! ### The index registers -/

theorem effectiveAddress_unindexed {f : Fields} (h : indexSelect f.index = .unindexed) (s : State) :
    effectiveAddress f s = .ok f.base := by
  simp only [effectiveAddress, h]

theorem effectiveAddress_register {f : Fields} {r : IndexReg} (h : indexSelect f.index = .register r) (s : State) :
    effectiveAddress f s = indexedAddress f.base (s.index r) := by
  simp only [effectiveAddress, h]

/-- Settles O17: the index field selects the register, and the frame of a step holds every index register. -/
theorem indexRegistersAreReadAndNeverWritten : Obligations.IndexRegistersAreReadAndNeverWritten := by
  unfold Obligations.IndexRegistersAreReadAndNeverWritten
  refine ⟨fun f s => ⟨fun h => effectiveAddress_unindexed (h ▸ rfl) s, ?_⟩, fun s t h => ?_, withIndex_same⟩
  · exact ⟨fun h => effectiveAddress_register (r := .i1) (h ▸ rfl) s,
      fun h => effectiveAddress_register (r := .i2) (h ▸ rfl) s,
      fun h => effectiveAddress_register (r := .i3) (h ▸ rfl) s,
      fun h => effectiveAddress_register (r := .i4) (h ▸ rfl) s,
      fun h => effectiveAddress_register (r := .i5) (h ▸ rfl) s,
      fun h => effectiveAddress_register (r := .i6) (h ▸ rfl) s⟩
  · obtain ⟨⟨hindex, -⟩, -⟩ := step_frame h
    exact ⟨hindex .i1, hindex .i2, hindex .i3, hindex .i4, hindex .i5, hindex .i6⟩

/-! ### The overflow flag -/

/-- The readable operand is one word: F names one byte range. -/
theorem OperandReadable.range_unique {f : Fields} {s : State} {r q : ByteRange}
    (hr : OperandReadable f s r) (hq : OperandReadable f s q) : q = r := by
  obtain ⟨-, -, -, hr⟩ := hr
  obtain ⟨-, -, -, hq⟩ := hq
  exact Option.some.inj (hq.symm.trans hr)

/-- The event that sets OV (R29): ADD or SUB whose exact result does not fit, or DIV in the divide case. -/
def SetsOverflow (i : Instr) (s : State) : Prop :=
  ∃ f r v, OperandReadable f s r ∧ v = operandWord f s r ∧
    (i = .add f ∧ 2 ^ 30 - 1 < (decodeWord v + decodeWord s.a).natAbs ∨
     i = .sub f ∧ 2 ^ 30 - 1 < (decodeWord v - decodeWord s.a).natAbs ∨
     i = .div f ∧ (wordMag v = 0 ∨ wordMag v ≤ wordMag s.a))

section
variable {f : Fields} {s : State} {r : ByteRange}

theorem not_setsOverflow_nop : ¬ SetsOverflow (.nop f) s := by simp [SetsOverflow]

theorem not_setsOverflow_mul : ¬ SetsOverflow (.mul f) s := by simp [SetsOverflow]

theorem setsOverflow_add (hr : OperandReadable f s r) :
    SetsOverflow (.add f) s ↔ 2 ^ 30 - 1 < (decodeWord (operandWord f s r) + decodeWord s.a).natAbs := by
  constructor
  · rintro ⟨g, q, v, hq, rfl, ⟨hi, ho⟩ | ⟨hi, -⟩ | ⟨hi, -⟩⟩ <;> cases hi
    rwa [hr.range_unique hq] at ho
  · exact fun ho => ⟨f, r, _, hr, rfl, .inl ⟨rfl, ho⟩⟩

theorem setsOverflow_sub (hr : OperandReadable f s r) :
    SetsOverflow (.sub f) s ↔ 2 ^ 30 - 1 < (decodeWord (operandWord f s r) - decodeWord s.a).natAbs := by
  constructor
  · rintro ⟨g, q, v, hq, rfl, ⟨hi, -⟩ | ⟨hi, ho⟩ | ⟨hi, -⟩⟩ <;> cases hi
    rwa [hr.range_unique hq] at ho
  · exact fun ho => ⟨f, r, _, hr, rfl, .inr (.inl ⟨rfl, ho⟩)⟩

theorem setsOverflow_div (hr : OperandReadable f s r) :
    SetsOverflow (.div f) s ↔ divideOverflows s.a (operandWord f s r) = true := by
  rw [divideOverflows_iff]
  constructor
  · rintro ⟨g, q, v, hq, rfl, ⟨hi, -⟩ | ⟨hi, -⟩ | ⟨hi, ho⟩⟩ <;> cases hi
    rwa [hr.range_unique hq] at ho
  · exact fun ho => ⟨f, r, _, hr, rfl, .inr (.inr ⟨rfl, ho⟩)⟩

end

theorem divideState_ov (v : Word) (s : State) :
    (divideState v s).ov = true ↔ s.ov = true ∨ divideOverflows s.a v = true := by
  rcases divideState_cases v s with ⟨ho, hd⟩ | ⟨ho, hd⟩ <;> simp [hd, ho]

/-- OV after an instruction: as before, or set by the one event that sets it (R29). -/
theorem exec_ov {i : Instr} {s t : State} (h : exec i s = .next t) :
    t.ov = true ↔ s.ov = true ∨ SetsOverflow i s := by
  rcases exec_next h with ⟨f, rfl, -, rfl⟩ | ⟨f, r, rfl, hr, rfl⟩ | ⟨f, r, rfl, hr, rfl⟩ | ⟨f, r, rfl, -, rfl⟩ |
    ⟨f, r, rfl, hr, rfl⟩
  · exact (or_iff_left not_setsOverflow_nop).symm
  · rw [setsOverflow_add hr]
    exact overflowAfter_iff
  · rw [setsOverflow_sub hr]
    exact overflowAfter_iff
  · exact (or_iff_left not_setsOverflow_mul).symm
  · rw [setsOverflow_div hr]
    exact divideState_ov _ s

/-- Settles O41, from OV after each instruction and the frame of a step. -/
theorem overflowFlagIsSticky : Obligations.OverflowFlagIsSticky := by
  unfold Obligations.OverflowFlagIsSticky
  refine ⟨fun i s t h => exec_ov h, fun s t h => ?_, fun s => ⟨rfl, rfl⟩⟩
  obtain ⟨-, -, -, hov⟩ := step_frame h
  exact hov

/-! ### Changes of state that a step carries along -/

/-- A change of state outside what the arithmetic kernel and the control of a step work on: it keeps A, X, OV, the draw count
and the halted bit, and commutes with every update a step makes. -/
structure OutsideAluAndControl (g : State → State) : Prop where
  alu : ∀ s, (g s).alu = s.alu
  draws : ∀ s, (g s).draws = s.draws
  halted : ∀ s, (g s).halted = s.halted
  withAlu : ∀ s r, (g s).withAlu r = g (s.withAlu r)
  tookDraw : ∀ s, (g s).tookDraw = g s.tookDraw
  advancePc : ∀ s, (g s).advancePc = g s.advancePc

theorem effectiveAddress_congr {s t : State} (h : ∀ r, t.index r = s.index r) (f : Fields) :
    effectiveAddress f t = effectiveAddress f s := by
  simp only [effectiveAddress, h]

theorem fetchOperand_congr {s t : State} (hindex : ∀ r, t.index r = s.index r) (halign : t.fieldAlign = s.fieldAlign)
    (hmem : t.mem = s.mem) (f : Fields) : fetchOperand f t = fetchOperand f s := by
  simp only [fetchOperand, effectiveAddress_congr hindex, halign, hmem]

section
variable {g : State → State} {s : State} {f : Fields}

theorem withEA_onNext {k k' : Address → Answer} (hea : effectiveAddress f (g s) = effectiveAddress f s)
    (hk : ∀ ea, k' ea = onNext g (k ea)) : withEA f (g s) k' = onNext g (withEA f s k) := by
  unfold withEA
  rw [hea]
  cases effectiveAddress f s with
  | error e => rfl
  | ok ea => exact hk ea

theorem withOperand_onNext {k k' : Word → Answer} (hop : fetchOperand f (g s) = fetchOperand f s)
    (hk : ∀ v, k' v = onNext g (k v)) : withOperand f (g s) k' = onNext g (withOperand f s k) := by
  unfold withOperand
  rw [hop]
  cases fetchOperand f s with
  | error e => rfl
  | ok v => exact hk v

variable (hg : OutsideAluAndControl g)
include hg

theorem divideState_comm (v : Word) : divideState v (g s) = g (divideState v s) := by
  have ha : (g s).a = s.a := congrArg Alu.a (hg.alu s)
  simp only [divideState, ha, hg.draws, hg.alu, hg.withAlu]
  split
  · exact hg.tookDraw _
  · rfl

/-- An instruction that finds the same EA and the same operand does the same and carries the change along. -/
theorem exec_onNext {i : Instr} (hea : effectiveAddress i.fields (g s) = effectiveAddress i.fields s)
    (hop : fetchOperand i.fields (g s) = fetchOperand i.fields s) : exec i (g s) = onNext g (exec i s) := by
  cases i
  case nop f => exact withEA_onNext hea fun _ => rfl
  case add f => exact withOperand_onNext hop fun v => by rw [hg.alu, hg.withAlu]; rfl
  case sub f => exact withOperand_onNext hop fun v => by rw [hg.alu, hg.withAlu]; rfl
  case mul f => exact withOperand_onNext hop fun v => by rw [hg.alu, hg.withAlu]; rfl
  case div f => exact withOperand_onNext hop fun v => by rw [divideState_comm hg]; rfl
  -- the extension points
  all_goals exact withEA_onNext hea fun _ => rfl

theorem commit_onNext (o : Answer) : commit (onNext g o) = onNext g (commit o) := by
  cases o with
  | next t => exact congrArg _ (hg.advancePc t)
  | fault e => rfl
  | refused r => rfl

/-- A step that fetches the same word, whose instruction finds the same EA and the same operand, does the same and carries
the change along. -/
theorem step_onNext (hfetch : fetch (g s) = fetch s)
    (hea : ∀ w, fetch s = .ok w → effectiveAddress (fieldsOf w) (g s) = effectiveAddress (fieldsOf w) s)
    (hop : ∀ w, fetch s = .ok w → fetchOperand (fieldsOf w) (g s) = fetchOperand (fieldsOf w) s) :
    step (g s) = onNext g (step s) := by
  unfold step
  rw [hg.halted, hfetch]
  split
  · rfl
  · cases hw : fetch s with
    | error e => rfl
    | ok w =>
      obtain ⟨i, hi, -, hfields⟩ := decode_ok w
      have hexec : exec i (g s) = onNext g (exec i s) :=
        exec_onNext hg (hfields ▸ hea w hw) (hfields ▸ hop w hw)
      simp only [dispatch, hi, hexec, commit_onNext hg]

end

/-! ### The comparison indicator -/

theorem outsideAluAndControl_withCi (c : Comparison) : OutsideAluAndControl (fun s => s.withCi c) where
  alu _ := rfl
  draws _ := rfl
  halted _ := rfl
  withAlu _ _ := rfl
  tookDraw _ := rfl
  advancePc _ := rfl

theorem step_withCi (s : State) (c : Comparison) : step (s.withCi c) = onNext (fun t => t.withCi c) (step s) :=
  step_onNext (outsideAluAndControl_withCi c) rfl (fun _ _ => effectiveAddress_congr (withCi_index s c) _)
    fun _ _ => fetchOperand_congr (withCi_index s c) rfl rfl _

theorem hostWrite_ci_of_ne (s : State) (e : Element) (v : e.Value) (he : e ≠ .ci) : (hostWrite s e v).ci = s.ci := by
  cases e
  case ci => exact absurd rfl he
  case index r => exact withIndex_ci s r v
  all_goals rfl

/-- Settles O44: changing CI is a change a step carries along, and CI is in the frame of a step. -/
theorem comparisonIndicatorIsNeverUsed : Obligations.ComparisonIndicatorIsNeverUsed := by
  unfold Obligations.ComparisonIndicatorIsNeverUsed
  refine ⟨step_withCi, fun s t h => ?_, hostWrite_ci_of_ne, fun s c => rfl⟩
  obtain ⟨⟨-, -, hci, -⟩, -⟩ := step_frame h
  exact hci

end Sys2Proof.Machine

/-! ## Memory -/

namespace Sys2Proof.Machine

theorem step_mem {s t : State} (h : step s = .next t) : t.mem = s.mem := by
  obtain ⟨-, hmem, -, -⟩ := step_frame h
  exact hmem

theorem hostWrite_mem_of_ne_word (s : State) (e : Element) (v : e.Value) (he : ∀ k, e ≠ .word k) :
    (hostWrite s e v).mem = s.mem := by
  cases e
  case word k => exact absurd rfl (he k)
  case index r => exact withIndex_mem s r v
  all_goals rfl

theorem hostWrite_word_mem (s : State) (k : Fin 4000) (v : Word) :
    (hostWrite s (.word k) v).mem = Memory.write s.mem k.val v := rfl

/-- Settles O20: the memory is in the frame of a step and of every host write but one of a word, which is read after write
in a canonical memory. -/
theorem onlyTheHostWritesMemory : Obligations.OnlyTheHostWritesMemory := by
  unfold Obligations.OnlyTheHostWritesMemory
  refine ⟨fun s t h n => by rw [step_mem h], hostWrite_mem_of_ne_word, fun s k v hwf n => ?_⟩
  rw [hostWrite_word_mem]
  exact read_write n hwf

end Sys2Proof.Machine

/-! ## Field specifications -/

namespace Sys2Proof.Machine

/-- A field specification names a range exactly when its pair is one (R73). -/
theorem exists_fieldRange {f : Byte} :
    (∃ r, fieldRange f = some r) ↔ fieldLeft f ≤ fieldRight f ∧ fieldRight f ≤ 5 := by
  rw [← Option.ne_none_iff_exists', ne_eq, fieldRange_eq_none]
  omega

/-- The 21 valid field specifications, read off the 64 bytes (R73). -/
theorem validPair_iff_mem : ∀ f : Byte,
    (fieldLeft f ≤ fieldRight f ∧ fieldRight f ≤ 5) ↔
      f.toNat ∈ [0, 1, 2, 3, 4, 5, 9, 10, 11, 12, 13, 18, 19, 20, 21, 27, 28, 29, 36, 37, 45] := by decide

section
variable {r : ByteRange} (hfirst : r.first = 0) (hlast : r.last = 5)
include hfirst hlast

theorem width_wholeWord : r.width = 31 := by
  simp [ByteRange.width, hfirst, hlast]

theorem extractBytes_wholeWord (w : Word) : extractBytes w r = w.toNat := by
  rw [extractBytes, width_wholeWord hfirst hlast, hlast, BitVec.extractLsb'_eq_self]

theorem fieldShift_wholeWord (al : FieldAlign) : fieldShift al r = 0 := by
  cases al
  case byte => simp [fieldShift, hfirst, hlast]
  case bit => simp [fieldShift, width_wholeWord hfirst hlast]

/-- The range (0, 5) is the whole word, and there is nothing to justify under either reading of FIELD_ALIGN (R109, R110, R111). -/
theorem applyField_wholeWord (al : FieldAlign) (w : Word) : applyField al w r = w := by
  rw [applyField, extractBytes_wholeWord hfirst hlast, fieldShift_wholeWord hfirst hlast, BitVec.shiftLeft_zero,
    BitVec.ofNat_toNat, BitVec.setWidth_eq]

end

/-- Settles O6: the range is the pair of F, it exists for the 21 valid bytes, and (0, 5) is the whole word. -/
theorem fieldSpecificationValidity : Obligations.FieldSpecificationValidity := by
  unfold Obligations.FieldSpecificationValidity
  refine fun f => ⟨fun r => ?pair, exists_fieldRange, exists_fieldRange.trans (validPair_iff_mem f), ?whole⟩
  case pair =>
    rw [fieldRange_eq_some, fieldLeft, fieldRight, eq_comm (a := r.first), eq_comm (a := r.last)]
  case whole =>
    rintro rfl
    exact ⟨⟨0, 5, by decide, by decide⟩, rfl, rfl, rfl, applyField_wholeWord rfl rfl⟩

end Sys2Proof.Machine

/-! ## Decodes, byte ranges and the field under FIELD_ALIGN = bit -/

namespace Sys2Proof.Machine

/-! ### Sign and magnitude -/

/-- A signed magnitude as the product that section 1 of 40_numeric.md writes. -/
theorem signed_eq_mul {p : Prop} [Decidable p] {n : Bool} (h : n = true ↔ p) (m : Nat) :
    signed n m = (if p then -1 else 1) * (m : Int) := by
  by_cases hp : p
  · rw [h.mpr hp, if_pos hp]; simp [signed]
  · rw [Bool.eq_false_iff.mpr (mt h.mp hp), if_neg hp]; simp [signed]

theorem signed_eq_zero_iff {n : Bool} {m : Nat} : signed n m = 0 ↔ m = 0 := by
  rw [← Int.natAbs_eq_zero, natAbs_signed]

/-! ### Words -/

/-- The sign of a Word is its bit 30. -/
theorem wordSign_iff_div {w : Word} : wordSign w = true ↔ w.toNat / 2 ^ 30 = 1 := by
  have h := w.isLt
  rw [wordSign_eq, decide_eq_true_iff]
  omega

theorem wordSign_toNat (w : Word) : (wordSign w).toNat = w.toNat / 2 ^ 30 := by
  have h := w.isLt
  cases hs : wordSign w
  case true => exact (wordSign_iff_div.mp hs).symm
  case false =>
    rw [wordSign_eq, decide_eq_false_iff_not] at hs
    rw [Bool.toNat_false]
    omega

theorem decodeWord_bounds (w : Word) : (decodeWord w).natAbs ≤ 2 ^ 30 - 1 := by
  have := wordMag_lt w
  rw [natAbs_decodeWord]; omega

theorem wordMag_eq_zero_iff {w : Word} : wordMag w = 0 ↔ w = 0 ∨ w = mkWord true 0 := by
  constructor
  · intro hm
    rw [← mkWord_sign_mag w, hm]
    cases wordSign w
    case false => exact .inl rfl
    case true => exact .inr rfl
  · rintro (rfl | rfl) <;> rfl

theorem decodeWord_eq_zero_iff {w : Word} : decodeWord w = 0 ↔ w = 0 ∨ w = mkWord true 0 :=
  signed_eq_zero_iff.trans wordMag_eq_zero_iff

theorem natAbs_decodeWord_mul_le (v w : Word) : (decodeWord v * decodeWord w).natAbs ≤ 2 ^ 60 - 2 ^ 31 + 1 :=
  calc (decodeWord v * decodeWord w).natAbs
    _ = (decodeWord v).natAbs * (decodeWord w).natAbs := Int.natAbs_mul _ _
    _ ≤ (2 ^ 30 - 1) * (2 ^ 30 - 1) := Nat.mul_le_mul (decodeWord_bounds v) (decodeWord_bounds w)
    _ = 2 ^ 60 - 2 ^ 31 + 1 := by decide

/-- Settles O8, from the sign and the magnitude of a Word. -/
theorem decodeWordIsSignedMagnitude : Obligations.DecodeWordIsSignedMagnitude := by
  unfold Obligations.DecodeWordIsSignedMagnitude
  intro v w
  have hv := decodeWord_bounds v
  have hw := decodeWord_bounds w
  have hmul := natAbs_decodeWord_mul_le v w
  refine ⟨?product, by omega, by omega, by omega, by omega, by omega, by omega, by omega, by omega,
    decodeWord_eq_zero_iff⟩
  case product => rw [← wordMag_eq, decodeWord, signed_eq_mul wordSign_iff_div]

/-! ### Double-words -/

theorem decodeDoubleword_bounds (hi lo : Word) : (decodeDoubleword hi lo).natAbs ≤ 2 ^ 60 - 1 := by
  have hh := wordMag_lt hi
  have hl := wordMag_lt lo
  rw [decodeDoubleword, natAbs_signed]
  omega

/-- The low word counts by its magnitude alone. -/
theorem decodeDoubleword_congr_lo (hi : Word) {lo lo' : Word} (h : wordMag lo' = wordMag lo) :
    decodeDoubleword hi lo' = decodeDoubleword hi lo := by
  rw [decodeDoubleword, decodeDoubleword, h]

theorem wordMag_mkWord_wordMag (b : Bool) (w : Word) : wordMag (mkWord b (wordMag w)) = wordMag w := by
  rw [wordMag_mkWord, Nat.mod_eq_of_lt (wordMag_lt w)]

/-- Settles O11, from the sign of the high word and the two magnitudes. -/
theorem decodeDoublewordRule : Obligations.DecodeDoublewordRule := by
  unfold Obligations.DecodeDoublewordRule
  intro hi lo
  have hb := decodeDoubleword_bounds hi lo
  refine ⟨?product, by omega, by omega, fun b => decodeDoubleword_congr_lo hi (wordMag_mkWord_wordMag b lo)⟩
  case product => rw [← wordMag_eq, ← wordMag_eq, decodeDoubleword, signed_eq_mul wordSign_iff_div]

/-! ### Addresses -/

/-- The sign of an Address is its bit 12. -/
theorem addrSign_iff_div {a : Address} : addrSign a = true ↔ a.toNat / 2 ^ 12 = 1 := by
  have h := a.isLt
  rw [addrSign_eq, decide_eq_true_iff]
  omega

/-- An Address is its sign and its magnitude. -/
theorem mkAddr_sign_mag (a : Address) : mkAddr (addrSign a) (addrMag a) = a := by
  have h := a.isLt
  apply BitVec.eq_of_toNat_eq
  rw [mkAddr_toNat, addrSign_eq, addrMag_eq]
  by_cases hs : 2 ^ 12 ≤ a.toNat
  · rw [decide_eq_true hs, Bool.toNat_true]; omega
  · rw [decide_eq_false hs, Bool.toNat_false]; omega

theorem addrMag_eq_zero_iff {a : Address} : addrMag a = 0 ↔ a = 0 ∨ a = mkAddr true 0 := by
  constructor
  · intro hm
    rw [← mkAddr_sign_mag a, hm]
    cases addrSign a
    case false => exact .inl rfl
    case true => exact .inr rfl
  · rintro (rfl | rfl) <;> rfl

theorem decodeAddress_eq_zero_iff {a : Address} : decodeAddress a = 0 ↔ a = 0 ∨ a = mkAddr true 0 :=
  signed_eq_zero_iff.trans addrMag_eq_zero_iff

/-- Settles O7, from the sign and the magnitude of an Address. -/
theorem decodeAddressIsSignedMagnitude : Obligations.DecodeAddressIsSignedMagnitude := by
  unfold Obligations.DecodeAddressIsSignedMagnitude
  intro a
  have hb := decodeAddress_bounds a
  refine ⟨?product, by omega, by omega, decodeAddress_eq_zero_iff⟩
  case product => rw [← addrMag_eq, decodeAddress, signed_eq_mul addrSign_iff_div]

/-! ### Byte ranges -/

theorem extractBytes_eq (w : Word) (r : ByteRange) :
    extractBytes w r = w.toNat / 2 ^ (30 - 6 * r.last) % 2 ^ r.width := by
  rw [extractBytes, BitVec.extractLsb'_toNat, Nat.shiftRight_eq_div_pow]

theorem extractBytes_lt (w : Word) (r : ByteRange) : extractBytes w r < 2 ^ r.width := BitVec.isLt _

/-- No range is wider than the word (R108). -/
theorem width_le (r : ByteRange) : r.width ≤ 31 := by
  have hord := r.ordered
  have hlast := r.bounded
  unfold ByteRange.width
  split <;> omega

section
variable {r : ByteRange} (hfirst : r.first = 0)
include hfirst

theorem width_withSign : r.width = 6 * r.last + 1 := if_pos hfirst

/-- A range from byte 0 reaches up to bit 30: there is nothing above it to cut off. -/
theorem extractBytes_withSign (w : Word) : extractBytes w r = w.toNat / 2 ^ (30 - 6 * r.last) := by
  have hlast := r.bounded
  rw [extractBytes_eq, Nat.mod_eq_of_lt]
  apply Nat.div_lt_of_lt_mul
  calc w.toNat
    _ < 2 ^ 31 := w.isLt
    _ = 2 ^ (30 - 6 * r.last) * 2 ^ r.width := by rw [← pow_add, width_withSign hfirst]; congr 1; omega

theorem extractBytes_sign (hlast : r.last = 0) (w : Word) : extractBytes w r = (wordSign w).toNat := by
  rw [extractBytes_withSign hfirst, hlast, wordSign_toNat]

theorem fieldShift_bit_withSign : fieldShift .bit r = fieldShift .byte r := by
  have hlast := r.bounded
  simp only [fieldShift, width_withSign hfirst, if_pos hfirst]
  omega

end

section
variable {r : ByteRange} (hfirst : 1 ≤ r.first)
include hfirst

theorem width_withoutSign : r.width = 6 * (r.last - r.first + 1) := if_neg (by omega)

/-- A range from byte 1 on stays below bit 30: it reads the magnitude alone. -/
theorem extractBytes_wordMag (w : Word) :
    extractBytes w r = wordMag w / 2 ^ (30 - 6 * r.last) % 2 ^ r.width := by
  have hord := r.ordered
  have hlast := r.bounded
  have hwidth : r.width ≤ 6 * r.last := by rw [width_withoutSign hfirst]; omega
  have hsplit : 2 ^ 30 = 2 ^ (30 - 6 * r.last) * 2 ^ (6 * r.last) := by rw [← pow_add]; congr 1; omega
  rw [extractBytes_eq, wordMag_eq, hsplit, Nat.mod_mul_right_div_self, Nat.mod_mod_of_dvd _ (Nat.pow_dvd_pow 2 hwidth)]

theorem extractBytes_withoutSign (b : Bool) (w : Word) : extractBytes (mkWord b (wordMag w)) r = extractBytes w r := by
  rw [extractBytes_wordMag hfirst, extractBytes_wordMag hfirst, wordMag_mkWord_wordMag]

theorem fieldShift_bit_withoutSign : fieldShift .bit r = fieldShift .byte r + 1 := by
  have hord := r.ordered
  have hlast := r.bounded
  simp only [fieldShift, width_withoutSign hfirst, if_neg (show ¬ r.first = 0 by omega)]
  omega

end

/-- Settles O13, case by case: with the sign bit and without it. -/
theorem extractBytesRule : Obligations.ExtractBytesRule := by
  unfold Obligations.ExtractBytesRule
  exact fun w r => ⟨fun h => ⟨width_withSign h, extractBytes_withSign h w⟩,
    fun h => ⟨width_withoutSign h, width_withoutSign h ▸ extractBytes_eq w r⟩,
    extractBytes_lt w r,
    fun h h5 => extractBytes_wholeWord h h5 w,
    fun h h0 => extractBytes_sign h h0 w,
    fun h b => extractBytes_withoutSign h b w⟩

/-! ### The field under FIELD_ALIGN = bit -/

/-- The extracted bits fill the word from its top, so the shift to the top loses none. -/
theorem applyField_bit_toNat (w : Word) (r : ByteRange) :
    (applyField .bit w r).toNat = extractBytes w r * 2 ^ (31 - r.width) := by
  have htop : 2 ^ r.width * 2 ^ (31 - r.width) = 2 ^ 31 := by
    rw [← pow_add, Nat.add_sub_cancel' (width_le r)]
  have hlt : extractBytes w r * 2 ^ (31 - r.width) < 2 ^ 31 :=
    htop ▸ Nat.mul_lt_mul_of_pos_right (extractBytes_lt w r) (Nat.two_pow_pos _)
  have hfit : extractBytes w r < 2 ^ 31 :=
    (extractBytes_lt w r).trans_le (Nat.pow_le_pow_right (by decide) (width_le r))
  rw [applyField, fieldShift, BitVec.toNat_shiftLeft, BitVec.toNat_ofNat, Nat.shiftLeft_eq, Nat.mod_eq_of_lt hfit,
    Nat.mod_eq_of_lt hlt]

/-- Settles O15: the two readings extract the same bits and differ in how far they shift them. -/
theorem applyFieldBitReading : Obligations.ApplyFieldBitReading := by
  unfold Obligations.ApplyFieldBitReading
  refine fun w r => ⟨applyField_bit_toNat w r, fun h => ?withSign, fun h => ?withoutSign⟩
  case withSign => rw [applyField, applyField, fieldShift_bit_withSign h]
  case withoutSign => rw [applyField, applyField, fieldShift_bit_withoutSign h, BitVec.shiftLeft_add]

end Sys2Proof.Machine

/-! ## Decoding, the extension points, the step and the run -/

namespace Sys2Proof

/-! ### The fields of a word -/

section
variable (w : Word)

theorem fieldsOf_base_toNat :
    (fieldsOf w).base.toNat = w.toNat / 2 ^ 30 * 2 ^ 12 + w.toNat / 2 ^ 18 % 2 ^ 12 := by
  have h := w.isLt
  rw [fieldsOf, BitVec.extractLsb'_toNat, Nat.shiftRight_eq_div_pow]
  omega

theorem fieldsOf_index_toNat : (fieldsOf w).index.toNat = w.toNat / 2 ^ 12 % 2 ^ 6 := by
  rw [fieldsOf, BitVec.extractLsb'_toNat, Nat.shiftRight_eq_div_pow]

theorem fieldsOf_field_toNat : (fieldsOf w).field.toNat = w.toNat / 2 ^ 6 % 2 ^ 6 := by
  rw [fieldsOf, BitVec.extractLsb'_toNat, Nat.shiftRight_eq_div_pow]

theorem opcodeOf_eq_mod : opcodeOf w = w.toNat % 2 ^ 6 := by
  rw [opcodeOf, BitVec.extractLsb'_toNat, Nat.shiftRight_zero]

end

/-- Settles O1: every word decodes to its own fields and opcode, and each of these is its bits. -/
theorem decoderTakesTheFiveFields : Obligations.DecoderTakesTheFiveFields := by
  unfold Obligations.DecoderTakesTheFiveFields
  intro w
  obtain ⟨i, hi, hopcode, hfields⟩ := decode_ok w
  rw [← opcodeOf_eq_mod, ← fieldsOf_base_toNat, ← fieldsOf_index_toNat, ← fieldsOf_field_toNat]
  exact ⟨i, hi, by rw [hfields], by rw [hfields], by rw [hfields], hopcode⟩

end Sys2Proof

namespace Sys2Proof.Machine

/-! ### The faults of EA and of the operand read -/

section
variable {f : Fields} {s : State}

theorem effectiveAddress_badIndex (h : 6 < f.index.toNat) :
    effectiveAddress f s = .error (.badIndexField f.index) := by
  cases he : effectiveAddress f s with
  | ok ea =>
    obtain ⟨-, hindex, -⟩ := effectiveAddress_value he
    omega
  | error e =>
    rcases effectiveAddress_error he with ⟨-, rfl⟩ | ⟨hindex, -⟩
    · rfl
    · omega

theorem effectiveAddress_overflow (hindex : f.index.toNat ≤ 6) (hsum : 4095 < (eaNumber f s).natAbs) :
    effectiveAddress f s = .error (.addressOverflow (eaNumber f s)) := by
  cases he : effectiveAddress f s with
  | ok ea =>
    obtain ⟨-, -, hfits⟩ := effectiveAddress_value he
    omega
  | error e =>
    rcases effectiveAddress_error he with ⟨hbad, -⟩ | ⟨-, -, rfl⟩
    · omega
    · rfl

theorem withEA_of_error {e : Fault} (h : effectiveAddress f s = .error e) (k : Address → Answer) :
    withEA f s k = .fault e := by
  simp only [withEA, h, raise]

theorem withEA_fault {k : Address → Answer} {e : Fault} (h : withEA f s k = .fault e)
    (hk : ∀ ea, k ea ≠ .fault e) :
    effectiveAddress f s = .error e := by
  unfold withEA at h
  split at h
  · rename_i he
    cases h
    exact he
  · exact absurd h (hk _)

theorem withOperand_fault {k : Word → Answer} {e : Fault} (h : withOperand f s k = .fault e)
    (hk : ∀ v, k v ≠ .fault e) :
    fetchOperand f s = .error e := by
  unfold withOperand at h
  split at h
  · rename_i he
    cases h
    exact he
  · exact absurd h (hk _)

/-- An EA fault is the operand read's fault too, for EA comes first (R170). -/
theorem fetchOperand_of_ea_error {e : Fault} (h : effectiveAddress f s = .error e) : fetchOperand f s = .error e := by
  simp only [fetchOperand, h]

theorem fetchOperand_ne_badOpcode (c : Nat) : fetchOperand f s ≠ .error (.badOpcode c) := by
  intro h
  cases he : effectiveAddress f s with
  | error e =>
    rw [fetchOperand_of_ea_error he] at h
    cases h
    rcases effectiveAddress_error he with ⟨-, hc⟩ | ⟨-, -, hc⟩ <;> cases hc
  | ok ea =>
    simp only [fetchOperand, he] at h
    rcases memoryGet_error h with ⟨-, hc⟩ | ⟨-, -, -, hc⟩ <;> cases hc

end

/-! ### The extension points -/

/-- Dispatch of an opcode above 4 (R147). -/
theorem exec_eq_extensionPoint {i : Instr} (h : 5 ≤ i.opcode) (s : State) :
    exec i s = extensionPoint i.opcode i.fields s := by
  cases i
  case nop | add | sub | mul | div => simp [Instr.opcode] at h
  all_goals rfl

/-- Settles O31: an opcode above 4 is an extension point, which forms EA, its faults first, and refuses. -/
theorem extensionPointsAreRefused : Obligations.ExtensionPointsAreRefused := by
  unfold Obligations.ExtensionPointsAreRefused
  intro i s hi
  rw [exec_eq_extensionPoint hi, extensionPoint]
  refine ⟨fun hea => ?refused, fun h => withEA_of_error (effectiveAddress_badIndex h) _,
    fun hindex hsum => withEA_of_error (effectiveAddress_overflow hindex hsum) _⟩
  case refused =>
    obtain ⟨-, -, -, hk⟩ := withEA_of_resolves hea fun _ => refuse i.opcode
    exact hk

/-! ### The faults of a step -/

/-- Every fault of an instruction is one of forming EA or of reading the operand: no operation raises one of its own. -/
theorem exec_fault {i : Instr} {s : State} {e : Fault} (h : exec i s = .fault e) :
    fetchOperand i.fields s = .error e := by
  cases i
  case add f => exact withOperand_fault h nofun
  case sub f => exact withOperand_fault h nofun
  case mul f => exact withOperand_fault h nofun
  case div f => exact withOperand_fault h nofun
  -- NOP and the extension points form EA only
  all_goals exact fetchOperand_of_ea_error (withEA_fault h nofun)

theorem commit_fault {o : Answer} {e : Fault} : commit o = .fault e ↔ o = .fault e := by
  cases o <;> simp [commit, raise]

/-- Every way a step can fault: no step while halted, the fetch, the instruction. -/
theorem step_fault {s : State} {e : Fault} (h : step s = .fault e) :
    e = .noStepHalted ∨ e = .memoryOutOfBounds s.pc.toNat .fetch ∨ ∃ i, exec i s = .fault e := by
  cases hh : s.halted with
  | true =>
    simp only [step, hh, if_true, raise, Host.Outcome.fault.injEq] at h
    exact .inl h.symm
  | false =>
    by_cases hp : s.pc.toNat ≤ 3999
    · obtain ⟨i, -, hs⟩ := step_running hh hp
      exact .inr (.inr ⟨i, commit_fault.mp (hs ▸ h)⟩)
    · have hf : fetch s = .error (.memoryOutOfBounds s.pc.toNat .fetch) := fetch_error.mpr ⟨by omega, rfl⟩
      simp only [step, hh, hf, Bool.false_eq_true, if_false, raise, Host.Outcome.fault.injEq] at h
      exact .inr (.inl h.symm)

/-- Settles O5: a step faults while halted, on the fetch, on EA or on the operand read, and none of these is BadOpcode. -/
theorem noStepRaisesBadOpcode : Obligations.NoStepRaisesBadOpcode := by
  unfold Obligations.NoStepRaisesBadOpcode
  intro s c h
  rcases step_fault h with hc | hc | ⟨i, hi⟩
  · cases hc
  · cases hc
  · exact fetchOperand_ne_badOpcode c (exec_fault hi)

/-! ### The program counter -/

/-- Only NOP and the arithmetic complete (R146, R171 to R175). -/
theorem opcode_le_of_exec_next {i : Instr} {s t : State} (h : exec i s = .next t) : i.opcode ≤ 4 := by
  by_contra hi
  rw [exec_eq_extensionPoint (by omega)] at h
  exact extensionPoint_ne_next _ _ _ _ h

/-- An `Ok` step starts inside the memory, so the advance of pc does not wrap. -/
theorem step_pc_toNat {s t : State} (h : step s = .next t) : t.pc.toNat = s.pc.toNat + 1 := by
  obtain ⟨-, hp, -⟩ := step_next h
  obtain ⟨-, -, hpc, -⟩ := step_frame h
  rw [hpc]
  bv_omega

/-- Settles O24: pc is in the frame of an `Ok` step, and no opcode above 4 completes. -/
theorem okStepAdvancesPcByOne : Obligations.OkStepAdvancesPcByOne := by
  unfold Obligations.OkStepAdvancesPcByOne
  refine ⟨fun s t h => ?step, fun s t i hlow _ h => ?jump⟩
  case step =>
    obtain ⟨-, hp, -⟩ := step_next h
    exact ⟨hp, step_pc_toNat h⟩
  case jump =>
    have := opcode_le_of_exec_next h
    omega

/-! ### The run -/

section
variable {s : State} (n : Nat)

theorem run_succ_of_next {t : State} (h : step s = .next t) : run (n + 1) s = run n t := by
  rw [run, h]

theorem run_succ_of_fault {e : Fault} (h : step s = .fault e) : run (n + 1) s = .stopped s (.fault e) := by
  rw [run, h]

theorem run_succ_of_refused {r : Refusal} (h : step s = .refused r) : run (n + 1) s = .stopped s (.refused r) := by
  rw [run, h]

end

/-- Settles O26, from what the first step of a run does to it. -/
theorem stoppedRunKeepsTheState : Obligations.StoppedRunKeepsTheState := by
  unfold Obligations.StoppedRunKeepsTheState
  exact fun n s => ⟨fun _ => run_succ_of_fault n, fun _ => run_succ_of_refused n, fun _ => run_succ_of_next n⟩

/-- A larger budget does not change where a run stopped: by induction on the budget, along the run. -/
theorem run_add_of_stopped {n : Nat} {s t : State} {w : Stop} (h : run n s = .stopped t w) (k : Nat) :
    run (n + k) s = .stopped t w := by
  induction n generalizing s with
  | zero => cases h
  | succ n ih =>
    rw [Nat.add_right_comm]
    cases hs : step s with
    | next u =>
      rw [run_succ_of_next _ hs] at h ⊢
      exact ih h
    | fault e =>
      rw [run_succ_of_fault _ hs] at h ⊢
      exact h
    | refused r =>
      rw [run_succ_of_refused _ hs] at h ⊢
      exact h

/-- Settles O27, by the induction along the run. -/
theorem runKeepsItsStop : Obligations.RunKeepsItsStop := by
  unfold Obligations.RunKeepsItsStop
  exact fun n k s t w h => run_add_of_stopped h k

end Sys2Proof.Machine

/-! ## Addition, subtraction and multiplication -/

namespace Sys2Proof.Machine

/-- An operand fault is the instruction's fault: the operation never runs (R170). -/
theorem withOperand_of_error {f : Fields} {s : State} {e : Fault} (h : fetchOperand f s = .error e) (k : Word → Answer) :
    withOperand f s k = .fault e := by
  simp only [withOperand, h, raise]

/-! ### ADD and SUB -/

/-- What an exact result written to A changes: A and OV, and nothing else (R171). -/
theorem withAlu_aluAccumulate (n : Int) (s : State) :
    s.withAlu (aluAccumulate n s.alu) =
      { s with a := encodeWord n, ov := s.ov || decide (2 ^ 30 - 1 < n.natAbs) } := rfl

/-- A result below twice the capacity of a Word loses at most its bit 30 to the truncation (R171). -/
theorem wordMag_encodeWord_of_lt {n : Int} (h : n.natAbs < 2 ^ 31) :
    wordMag (encodeWord n) = if 2 ^ 30 - 1 < n.natAbs then n.natAbs - 2 ^ 30 else n.natAbs := by
  rw [wordMag_encodeWord]
  split <;> omega

theorem natAbs_decodeWord_add_lt (v w : Word) : (decodeWord v + decodeWord w).natAbs < 2 ^ 31 := by
  have hv := decodeWord_bounds v
  have hw := decodeWord_bounds w
  omega

theorem natAbs_decodeWord_sub_lt (v w : Word) : (decodeWord v - decodeWord w).natAbs < 2 ^ 31 := by
  have hv := decodeWord_bounds v
  have hw := decodeWord_bounds w
  omega

section
variable {f : Fields} {s : State} {r : ByteRange} (hr : OperandReadable f s r)
include hr

theorem exec_add_of_readable :
    exec (.add f) s = .next (s.withAlu (aluAccumulate (decodeWord (operandWord f s r) + decodeWord s.a) s.alu)) :=
  withOperand_of_readable hr _

theorem exec_sub_of_readable :
    exec (.sub f) s = .next (s.withAlu (aluAccumulate (decodeWord (operandWord f s r) - decodeWord s.a) s.alu)) :=
  withOperand_of_readable hr _

theorem exec_mul_of_readable : exec (.mul f) s = .next (s.withAlu (aluMul (operandWord f s r) s.alu)) :=
  withOperand_of_readable hr _

end

/-- Settles O32: the sum of two Words is below 2^31 in magnitude, so the truncation that writes it to A drops at most 2^30. -/
theorem addComputesOperandPlusA : Obligations.AddComputesOperandPlusA := by
  unfold Obligations.AddComputesOperandPlusA
  refine fun f s => ⟨fun r n hr hn => ?readable, fun e he => withOperand_of_error he _⟩
  case readable =>
    subst hn
    exact ⟨by rw [exec_add_of_readable hr, withAlu_aluAccumulate], fun _ => wordSign_encodeWord _,
      wordMag_encodeWord_of_lt (natAbs_decodeWord_add_lt _ _)⟩

/-- Settles O33, as for ADD with the difference of operand and A. -/
theorem subComputesOperandMinusA : Obligations.SubComputesOperandMinusA := by
  unfold Obligations.SubComputesOperandMinusA
  refine fun f s => ⟨fun r n hr hn => ?readable, fun e he => withOperand_of_error he _⟩
  case readable =>
    subst hn
    exact ⟨by rw [exec_sub_of_readable hr, withAlu_aluAccumulate], fun _ => wordSign_encodeWord _,
      wordMag_encodeWord_of_lt (natAbs_decodeWord_sub_lt _ _)⟩

/-! ### MUL -/

/-- What the exact product changes: A and X, and nothing else (R173). -/
theorem withAlu_aluMul (v : Word) (s : State) :
    s.withAlu (aluMul v s.alu) =
      { s with a := (encodeDoubleword (decodeWord v * decodeWord s.a)).1,
               x := (encodeDoubleword (decodeWord v * decodeWord s.a)).2 } := rfl

section
variable (v : Int)

theorem wordSign_encodeDoubleword_fst : wordSign (encodeDoubleword v).1 = decide (v < 0) := wordSign_mkWord _ _

theorem wordSign_encodeDoubleword_snd : wordSign (encodeDoubleword v).2 = decide (v < 0) := wordSign_mkWord _ _

/-- The low word holds the lower 30 bits of the magnitude, whatever is truncated above (R106). -/
theorem wordMag_encodeDoubleword_snd : wordMag (encodeDoubleword v).2 = v.natAbs % 2 ^ 30 := by
  rw [encodeDoubleword, wordMag_mkWord]
  omega

end

section
variable {v : Int} (hv : v.natAbs < 2 ^ 60)
include hv

/-- The high word holds the upper 30 bits of a magnitude that fits a Double-word (R106). -/
theorem wordMag_encodeDoubleword_fst : wordMag (encodeDoubleword v).1 = v.natAbs / 2 ^ 30 := by
  rw [encodeDoubleword, wordMag_mkWord]
  omega

/-- An integer that fits a Double-word is encoded without loss (R105, R106). -/
theorem decodeDoubleword_encodeDoubleword :
    decodeDoubleword (encodeDoubleword v).1 (encodeDoubleword v).2 = v := by
  rw [decodeDoubleword, wordSign_encodeDoubleword_fst, wordMag_encodeDoubleword_fst hv, wordMag_encodeDoubleword_snd,
    Nat.div_add_mod', signed_natAbs]

end

/-- The product of two Words fits a Double-word (R173). -/
theorem natAbs_decodeWord_mul_lt (v w : Word) : (decodeWord v * decodeWord w).natAbs < 2 ^ 60 :=
  (natAbs_decodeWord_mul_le v w).trans_lt (by decide)

/-- Settles O34: the product fits a Double-word, which encodes it in A and X without loss. -/
theorem mulWritesTheExactProduct : Obligations.MulWritesTheExactProduct := by
  unfold Obligations.MulWritesTheExactProduct
  refine fun f s => ⟨fun r p hr hp => ?readable, fun e he => withOperand_of_error he _⟩
  case readable =>
    have hfits : p.natAbs < 2 ^ 60 := hp ▸ natAbs_decodeWord_mul_lt _ _
    exact ⟨(encodeDoubleword p).1, (encodeDoubleword p).2,
      by rw [exec_mul_of_readable hr, withAlu_aluMul, hp],
      decodeDoubleword_encodeDoubleword hfits, wordMag_encodeDoubleword_fst hfits, wordMag_encodeDoubleword_snd p,
      fun _ => ⟨wordSign_encodeDoubleword_fst p, wordSign_encodeDoubleword_snd p⟩⟩

end Sys2Proof.Machine

/-! ## Overflow and the divide case end the step `Ok` -/

namespace Sys2Proof.Machine

/-- A block about to execute an instruction takes the step that commits what the instruction answers (R143). -/
theorem step_of_aboutToExecute {i : Instr} {s : State} (h : AboutToExecute s i) : step s = commit (exec i s) := by
  obtain ⟨hrun, hpc, hi⟩ := h
  obtain ⟨j, hj, hstep⟩ := step_running hrun hpc
  rw [hstep, Except.ok.inj (hj.symm.trans hi)]

/-- The event that sets OV presumes a readable operand, so the instruction completes (R171, R172, R175). -/
theorem exec_next_of_setsOverflow {i : Instr} {s : State} (h : SetsOverflow i s) : ∃ t, exec i s = .next t := by
  obtain ⟨f, r, v, hr, -, ⟨rfl, -⟩ | ⟨rfl, -⟩ | ⟨rfl, -⟩⟩ := h
  · exact ⟨_, exec_add_of_readable hr⟩
  · exact ⟨_, exec_sub_of_readable hr⟩
  · exact ⟨_, withOperand_of_readable hr _⟩

/-- A step at the event that sets OV ends `Ok` with OV set (R202). -/
theorem step_of_setsOverflow {i : Instr} {s : State} (hi : AboutToExecute s i) (ho : SetsOverflow i s) :
    ∃ t, step s = .next t ∧ t.ov = true := by
  obtain ⟨u, hu⟩ := exec_next_of_setsOverflow ho
  have hov : u.ov = true := (exec_ov hu).2 (.inr ho)
  exact ⟨u.advancePc, by rw [step_of_aboutToExecute hi, commit_next.2 ⟨u, hu, rfl⟩], hov⟩

/-- Settles O40: each of the three premises is the event that sets OV, at which a step ends `Ok`. -/
theorem overflowIsNoFault : Obligations.OverflowIsNoFault := by
  unfold Obligations.OverflowIsNoFault
  intro f s r v hr hv
  refine ⟨fun hi ho => step_of_setsOverflow hi ?add, fun hi ho => step_of_setsOverflow hi ?sub,
    fun hi ho => step_of_setsOverflow hi ?div⟩
  case add => exact ⟨f, r, v, hr, hv, .inl ⟨rfl, ho⟩⟩
  case sub => exact ⟨f, r, v, hr, hv, .inr (.inl ⟨rfl, ho⟩)⟩
  case div => exact ⟨f, r, v, hr, hv, .inr (.inr ⟨rfl, ho⟩)⟩

end Sys2Proof.Machine

/-! ## Encoding and decoding -/

namespace Sys2Proof

/-- The decoder reads back what an instruction is written as: a packed word's fields and opcode, and the opcode map. -/
theorem decode_encode (i : Instr) : decode (encode i) = .ok i := by
  obtain ⟨hinstr, hlt⟩ := Laws.OfOpcode.all i
  rw [decode, encode, opcodeOf_packWord, fieldsOf_packWord, Nat.mod_eq_of_lt hlt, hinstr]

/-- An instruction is written as the word it was decoded from. -/
theorem encode_of_decode {w : Word} {i : Instr} (h : decode w = .ok i) : encode i = w := by
  obtain ⟨j, hj, hopcode, hfields⟩ := decode_ok w
  obtain rfl : i = j := Except.ok.inj (h.symm.trans hj)
  rw [encode, hopcode, hfields, packWord_fieldsOf]

/-- Settles O2, by the packed word's fields and opcode and the opcode map. -/
theorem decodeOfEncodeIsIdentity : Obligations.DecodeOfEncodeIsIdentity := by
  unfold Obligations.DecodeOfEncodeIsIdentity
  exact decode_encode

/-- Settles O3: decoding is total, and decoding and encoding undo each other. -/
theorem everyWordIsExactlyOneInstruction : Obligations.EveryWordIsExactlyOneInstruction := by
  unfold Obligations.EveryWordIsExactlyOneInstruction
  intro w
  obtain ⟨i, hi, -, -⟩ := decode_ok w
  refine ⟨i, hi, encode_of_decode hi, fun j hj => ?unique⟩
  case unique =>
    have hwj : decode w = .ok j := hj ▸ decode_encode j
    exact Except.ok.inj (hwj.symm.trans hi)

theorem decode_of_encode_eq {w : Word} {i : Instr} (h : encode i = w) : decode w = .ok i := h ▸ decode_encode i

/-- Settles O4: each of the nine words is the encoding of the instruction it is listed for. -/
theorem wordsOfTheSpecDecode : Obligations.WordsOfTheSpecDecode := by
  unfold Obligations.WordsOfTheSpecDecode
  refine ⟨?_, ?_, ?_, ?_, ?_, ?_, ?_, ?_, ?_⟩ <;> exact decode_of_encode_eq (by decide)

end Sys2Proof

/-! ## The invariant -/

namespace Sys2Proof.Machine

/-- An `Ok` step keeps the memory and starts with pc at most 3999 (D22): canonical memory gives the invariant after it. -/
theorem inv_of_step {s t : State} (hwf : Memory.wf s.mem = true) (h : step s = .next t) : t.Inv := by
  obtain ⟨-, hpc, -⟩ := step_next h
  refine ⟨by rw [step_mem h]; exact hwf, ?pc⟩
  case pc =>
    rw [step_pc_toNat h]
    omega

/-- Settles O50, from the memory and pc after a step; the bound on pc before the step is not needed. -/
theorem everyStepKeepsTheInvariant : Obligations.EveryStepKeepsTheInvariant := by
  unfold Obligations.EveryStepKeepsTheInvariant
  exact ⟨fun _ _ ⟨hwf, _⟩ => inv_of_step hwf, fun _ _ => inv_of_step⟩

/-- Settles O49: the memory after reset is empty and pc is 0. -/
theorem invariantHoldsAtReset : Obligations.InvariantHoldsAtReset := by
  unfold Obligations.InvariantHoldsAtReset
  exact ⟨wf_reset, Nat.zero_le _⟩

end Sys2Proof.Machine

/-! ## Conversions and the field under FIELD_ALIGN = byte -/

namespace Sys2Proof.Machine

/-! ### Encodes -/

theorem addrSign_encodeAddress (v : Int) : addrSign (encodeAddress v) = decide (v < 0) := addrSign_mkAddr _ _

theorem addrMag_encodeAddress (v : Int) : addrMag (encodeAddress v) = v.natAbs % 2 ^ 12 := by
  rw [encodeAddress, addrMag_mkAddr, Nat.mod_mod]

/-- The pair of magnitudes of an encoded Double-word is the magnitude truncated to 60 bits (R106). -/
theorem doublewordMag_encodeDoubleword (v : Int) :
    wordMag (encodeDoubleword v).1 * 2 ^ 30 + wordMag (encodeDoubleword v).2 = v.natAbs % 2 ^ 60 := by
  rw [wordMag_encodeDoubleword_snd, encodeDoubleword, wordMag_mkWord]
  omega

/-- Settles O9, from the sign and the magnitude of each encode. -/
theorem encodesTruncateTheMagnitude : Obligations.EncodesTruncateTheMagnitude := by
  unfold Obligations.EncodesTruncateTheMagnitude
  exact fun v => ⟨wordSign_encodeWord v, wordMag_encodeWord v, addrSign_encodeAddress v, addrMag_encodeAddress v,
    wordSign_encodeDoubleword_fst v, wordSign_encodeDoubleword_snd v, doublewordMag_encodeDoubleword v⟩

/-! ### Round trips -/

/-- An integer that fits a Word is encoded without loss (R104). -/
theorem decodeWord_encodeWord_exact {v : Int} (h : v.natAbs ≤ 2 ^ 30 - 1) : decodeWord (encodeWord v) = v := by
  rw [decodeWord_encodeWord, Nat.mod_eq_of_lt (by omega), signed_natAbs]

theorem signed_lt_zero_iff {n : Bool} {m : Nat} : signed n m < 0 ↔ n = true ∧ m ≠ 0 := by
  cases n
  case false => simp [signed]
  case true => simp [signed]; omega

/-- A Word other than −0 has a sign only where it has a magnitude, so its encoded number has both back (R104; D11). -/
theorem encodeWord_decodeWord {w : Word} (hw : w ≠ mkWord true 0) : encodeWord (decodeWord w) = w := by
  by_cases h0 : wordMag w = 0
  · obtain rfl : w = 0 := (wordMag_eq_zero_iff.mp h0).resolve_right hw
    rfl
  · have hsign : decide (decodeWord w < 0) = wordSign w := by simp [decodeWord, signed_lt_zero_iff, h0]
    rw [encodeWord, hsign, natAbs_decodeWord, Nat.mod_eq_of_lt (wordMag_lt w), mkWord_sign_mag]

/-- Settles O10, from what each decode gives back of an encode and what an encode gives back of a Word. -/
theorem conversionsRoundTrip : Obligations.ConversionsRoundTrip := by
  unfold Obligations.ConversionsRoundTrip
  refine ⟨fun v => decodeWord_encodeWord_exact, fun v => decodeAddress_encodeAddress_exact, fun v => ?truncated,
    fun w => encodeWord_decodeWord, rfl⟩
  case truncated =>
    exact ⟨by rw [natAbs_decodeWord, wordMag_encodeWord], by rw [natAbs_decodeAddress, addrMag_encodeAddress]⟩

/-- Settles O12: the range is that of a Double-word. -/
theorem doublewordRoundTrip : Obligations.DoublewordRoundTrip := by
  unfold Obligations.DoublewordRoundTrip
  exact fun v hv => decodeDoubleword_encodeDoubleword (by omega)

/-! ### The field under FIELD_ALIGN = byte -/

/-- A bit of the applied field: above the shift and within the width it is the selected bit, elsewhere 0 (R110, R111). -/
theorem getLsbD_applyField (al : FieldAlign) (w : Word) (r : ByteRange) (j : Nat) :
    (applyField al w r).getLsbD j =
      (decide (j < 31) && !decide (j < fieldShift al r) && decide (j - fieldShift al r < r.width) &&
        w.getLsbD (30 - 6 * r.last + (j - fieldShift al r))) := by
  rw [applyField, extractBytes, BitVec.ofNat_toNat, BitVec.getLsbD_shiftLeft, BitVec.getLsbD_setWidth,
    BitVec.getLsbD_extractLsb']
  by_cases h : j < 31
  · simp [h, show j - fieldShift al r < 31 by omega, Bool.and_assoc]
  · simp [h]

theorem getLsbD_wordByte (w : Word) (k b : Nat) :
    (wordByte w k).getLsbD b = (decide (b < 6) && w.getLsbD (30 - 6 * k + b)) :=
  BitVec.getLsbD_extractLsb' _ _ _ _

/-- With the sign in the range, every bit from byte R up stays where it is (R110). -/
theorem getLsbD_applyField_withSign {r : ByteRange} (hfirst : r.first = 0) (w : Word) {j : Nat} (hj : j ≤ 30) :
    (applyField .byte w r).getLsbD j = (decide (30 - 6 * r.last ≤ j) && w.getLsbD j) := by
  have hlast := r.bounded
  have hshift : fieldShift .byte r = 30 - 6 * r.last := by simp only [fieldShift, if_pos hfirst]; omega
  rw [getLsbD_applyField, hshift, width_withSign hfirst]
  by_cases h : 30 - 6 * r.last ≤ j
  · have hsrc : 30 - 6 * r.last + (j - (30 - 6 * r.last)) = j := by omega
    have hwidth : j - (30 - 6 * r.last) < 6 * r.last + 1 := by omega
    simp [hsrc, hwidth, h, show j < 31 by omega]
  · simp [h, show j < 30 - 6 * r.last by omega]

/-- Without the sign in the range, the selected bytes move up by L − 1 of them, below the sign (R110). -/
theorem getLsbD_applyField_withoutSign {r : ByteRange} (hfirst : 1 ≤ r.first) (w : Word) {j : Nat} (hj : j ≤ 30) :
    (applyField .byte w r).getLsbD j =
      (decide (30 - 6 * (r.last - r.first + 1) ≤ j ∧ j < 30) && w.getLsbD (j + 6 - 6 * r.first)) := by
  have hord := r.ordered
  have hlast := r.bounded
  have hshift : fieldShift .byte r = 30 - 6 * (r.last - r.first + 1) := by
    simp only [fieldShift, if_neg (show ¬ r.first = 0 by omega)]; omega
  rw [getLsbD_applyField, hshift, width_withoutSign hfirst]
  by_cases h : 30 - 6 * (r.last - r.first + 1) ≤ j ∧ j < 30
  · have hsrc : 30 - 6 * r.last + (j - (30 - 6 * (r.last - r.first + 1))) = j + 6 - 6 * r.first := by omega
    have hwidth : j - (30 - 6 * (r.last - r.first + 1)) < 6 * (r.last - r.first + 1) := by omega
    simp [hsrc, hwidth, h, show j < 31 by omega]
  · rw [decide_eq_false h]
    by_cases hlow : j < 30 - 6 * (r.last - r.first + 1)
    · simp [hlow]
    · have hhigh : ¬ j - (30 - 6 * (r.last - r.first + 1)) < 6 * (r.last - r.first + 1) := by omega
      simp [hhigh]

theorem wordSign_applyField_withSign {r : ByteRange} (hfirst : r.first = 0) (w : Word) :
    wordSign (applyField .byte w r) = wordSign w := by
  rw [wordSign, getLsbD_applyField_withSign hfirst w (Nat.le_refl 30), wordSign]
  simp

theorem wordByte_applyField_withSign {r : ByteRange} (hfirst : r.first = 0) (w : Word) {k : Nat}
    (hk : 1 ≤ k) (hk5 : k ≤ 5) :
    wordByte (applyField .byte w r) k = if k ≤ r.last then wordByte w k else 0 := by
  have hlast := r.bounded
  apply BitVec.eq_of_getLsbD_eq
  intro b hb
  rw [getLsbD_wordByte, getLsbD_applyField_withSign hfirst w (by omega)]
  by_cases h : k ≤ r.last
  · rw [if_pos h, getLsbD_wordByte, decide_eq_true (show 30 - 6 * r.last ≤ 30 - 6 * k + b by omega), Bool.true_and]
  · rw [if_neg h, decide_eq_false (show ¬ 30 - 6 * r.last ≤ 30 - 6 * k + b by omega)]
    simp

theorem wordSign_applyField_withoutSign {r : ByteRange} (hfirst : 1 ≤ r.first) (w : Word) :
    wordSign (applyField .byte w r) = false := by
  rw [wordSign, getLsbD_applyField_withoutSign hfirst w (Nat.le_refl 30)]
  simp

theorem wordByte_applyField_withoutSign {r : ByteRange} (hfirst : 1 ≤ r.first) (w : Word) {k : Nat}
    (hk : 1 ≤ k) (hk5 : k ≤ 5) :
    wordByte (applyField .byte w r) k =
      if k ≤ r.last - r.first + 1 then wordByte w (r.first + k - 1) else 0 := by
  have hord := r.ordered
  have hlast := r.bounded
  apply BitVec.eq_of_getLsbD_eq
  intro b hb
  rw [getLsbD_wordByte, getLsbD_applyField_withoutSign hfirst w (by omega)]
  by_cases h : k ≤ r.last - r.first + 1
  · have hsrc : 30 - 6 * k + b + 6 - 6 * r.first = 30 - 6 * (r.first + k - 1) + b := by omega
    have hin : 30 - 6 * (r.last - r.first + 1) ≤ 30 - 6 * k + b ∧ 30 - 6 * k + b < 30 := by omega
    rw [if_pos h, getLsbD_wordByte, decide_eq_true hin, Bool.true_and, hsrc]
  · have hout : ¬ (30 - 6 * (r.last - r.first + 1) ≤ 30 - 6 * k + b ∧ 30 - 6 * k + b < 30) := by omega
    rw [if_neg h, decide_eq_false hout]
    simp

/-- Settles O14, bit by bit: which bit of the word each bit of the sign and of byte k is. -/
theorem applyFieldByteByByte : Obligations.ApplyFieldByteByByte := by
  unfold Obligations.ApplyFieldByteByByte
  exact fun w r k hk hk5 =>
    ⟨fun h => ⟨wordSign_applyField_withSign h w, wordByte_applyField_withSign h w hk hk5⟩,
      fun h => ⟨wordSign_applyField_withoutSign h w, wordByte_applyField_withoutSign h w hk hk5⟩⟩

end Sys2Proof.Machine

/-! ## The effective address and the operand, by their cases -/

namespace Sys2Proof.Machine

section
variable {f : Fields} {s : State}

theorem eaNumber_of_unindexed (h : f.index = 0) : eaNumber f s = decodeAddress f.base := by
  have h0 : indexValue s f.index = 0 := h ▸ rfl
  rw [eaNumber, h0, Int.add_zero]

theorem eaResolves_of_unindexed (h : f.index = 0) : EaResolves f s := by
  rw [EaResolves, eaNumber_of_unindexed h, h]
  exact ⟨by decide, decodeAddress_bounds f.base⟩

/-- An indexed sum that is an Address is the EA (R141). -/
theorem effectiveAddress_of_indexed (hlow : 1 ≤ f.index.toNat) (hhigh : f.index.toNat ≤ 6)
    (hfits : (eaNumber f s).natAbs ≤ 4095) : effectiveAddress f s = .ok (encodeAddress (eaNumber f s)) := by
  rcases indexSelect_cases f.index s with ⟨-, h0, -⟩ | ⟨r, hsel, -, -, hvalue⟩ | ⟨-, h7⟩
  · omega
  · rw [eaNumber, hvalue] at hfits ⊢
    rw [effectiveAddress_register hsel, indexedAddress, if_neg (by omega)]
  · omega

end

/-- Settles O16, case by case along the index field and the sum. -/
theorem effectiveAddressRule : Obligations.EffectiveAddressRule := by
  unfold Obligations.EffectiveAddressRule
  refine fun f s => ⟨fun h => ?unindexed, fun hlow hhigh => ⟨fun hfits => ?indexed, effectiveAddress_overflow hhigh⟩,
    effectiveAddress_badIndex⟩
  case unindexed =>
    have h0 : f.index = 0 := BitVec.eq_of_toNat_eq h
    exact effectiveAddress_unindexed (h0 ▸ rfl) s
  case indexed => exact ⟨effectiveAddress_of_indexed hlow hhigh hfits, decodeAddress_encodeAddress_exact hfits⟩

/-! ### The operand read -/

section
variable (al : FieldAlign) (m : Memory) {a : Address} {field : Byte}

theorem memoryGet_outOfBounds (h : decodeAddress a < 0 ∨ 3999 < decodeAddress a) :
    memoryGet al m a field = .error (.memoryOutOfBounds (decodeAddress a) .operand) := by
  simp only [memoryGet, if_pos h]

theorem memoryGet_badField (h0 : 0 ≤ decodeAddress a) (h1 : decodeAddress a ≤ 3999) (h : fieldRange field = none) :
    memoryGet al m a field = .error (.badFieldSpecification field) := by
  have hin : ¬ (decodeAddress a < 0 ∨ 3999 < decodeAddress a) := by omega
  simp only [memoryGet, if_neg hin, h]

end

/-- Settles O18: the bounds, the field, the word. -/
theorem memoryGetRule : Obligations.MemoryGetRule := by
  unfold Obligations.MemoryGetRule
  exact fun al m a field => ⟨memoryGet_outOfBounds al m, fun h0 h1 =>
    ⟨fun h => memoryGet_badField al m h0 h1 (fieldRange_eq_none.mpr h),
      fun r hr => memoryGet_ok.mpr ⟨h0, h1, r, hr, rfl⟩⟩⟩

/-! ### The operand of an arithmetic instruction -/

section
variable {f : Fields} {s : State}

theorem fetchOperand_of_effectiveAddress {ea : Address} (h : effectiveAddress f s = .ok ea) :
    fetchOperand f s = memoryGet s.fieldAlign s.mem ea f.field := by
  simp only [fetchOperand, h]

theorem fetchOperand_outOfBounds (hea : EaResolves f s) (h : eaNumber f s < 0 ∨ 3999 < eaNumber f s) :
    fetchOperand f s = .error (.memoryOutOfBounds (eaNumber f s) .operand) := by
  obtain ⟨ea, hok, hvalue⟩ := effectiveAddress_ok.mpr hea
  rw [← hvalue] at h ⊢
  rw [fetchOperand_of_effectiveAddress hok, memoryGet_outOfBounds _ _ h]

theorem fetchOperand_badField (hea : EaResolves f s) (h0 : 0 ≤ eaNumber f s) (h1 : eaNumber f s ≤ 3999)
    (h : fieldRange f.field = none) : fetchOperand f s = .error (.badFieldSpecification f.field) := by
  obtain ⟨ea, hok, hvalue⟩ := effectiveAddress_ok.mpr hea
  rw [fetchOperand_of_effectiveAddress hok, memoryGet_badField _ _ (hvalue ▸ h0) (hvalue ▸ h1) h]

/-- The operand's faults are the two of EA and the two of the operand read (R141, R53). -/
theorem fetchOperand_error {e : Fault} (h : fetchOperand f s = .error e) :
    e = .badIndexField f.index ∨ e = .addressOverflow (eaNumber f s) ∨
      e = .memoryOutOfBounds (eaNumber f s) .operand ∨ e = .badFieldSpecification f.field := by
  cases hea : effectiveAddress f s with
  | error e' =>
    obtain rfl : e' = e := Except.error.inj ((fetchOperand_of_ea_error hea).symm.trans h)
    rcases effectiveAddress_error hea with ⟨-, he⟩ | ⟨-, -, he⟩
    · exact .inl he
    · exact .inr (.inl he)
  | ok ea =>
    obtain ⟨hvalue, -⟩ := effectiveAddress_value hea
    rw [fetchOperand_of_effectiveAddress hea] at h
    rcases memoryGet_error h with ⟨-, he⟩ | ⟨-, -, -, he⟩
    · exact .inr (.inr (.inl (hvalue ▸ he)))
    · exact .inr (.inr (.inr he))

end

/-- Settles O39: where the operand is fetched, and what each of the four instructions ends in where it is not. -/
theorem arithmeticEndsInTheOperandFault : Obligations.ArithmeticEndsInTheOperandFault := by
  unfold Obligations.ArithmeticEndsInTheOperandFault
  exact fun f s => ⟨fun v => fetchOperand_ok, fun e he =>
    ⟨withOperand_of_error he _, withOperand_of_error he _, withOperand_of_error he _, withOperand_of_error he _,
      fetchOperand_error he⟩⟩

end Sys2Proof.Machine

/-! ## Division and zero results -/

namespace Sys2Proof.Machine

section
variable {f : Fields} {s : State} {r : ByteRange} (hr : OperandReadable f s r)
include hr

/-- DIV in the ordinary case (R174). -/
theorem exec_div_ordinary (h : wordMag s.a < wordMag (operandWord f s r)) :
    exec (.div f) s = .next { s with
      a := encodeWord ((decodeDoubleword s.a s.x).tdiv (decodeWord (operandWord f s r)))
      x := mkWord (wordSign s.a)
        ((decodeDoubleword s.a s.x).natAbs % (decodeWord (operandWord f s r)).natAbs) } := by
  have hexec : exec (.div f) s = .next (divideState (operandWord f s r) s) := withOperand_of_readable hr _
  rcases divideState_cases (operandWord f s r) s with ⟨ho, -⟩ | ⟨-, hd⟩
  · have := divideOverflows_iff.mp ho
    omega
  · rw [hexec, hd]

/-- DIV in the divide case (R175). -/
theorem exec_div_fault (h : wordMag (operandWord f s r) = 0 ∨ wordMag (operandWord f s r) ≤ wordMag s.a) :
    exec (.div f) s = .next { s with
      a := Config.divUndefA s.draws, x := Config.divUndefX s.draws, ov := true, draws := s.draws + 1 } := by
  have hexec : exec (.div f) s = .next (divideState (operandWord f s r) s) := withOperand_of_readable hr _
  rcases divideState_cases (operandWord f s r) s with ⟨-, hd⟩ | ⟨ho, -⟩
  · rw [hexec, hd]
  · rw [divideOverflows_iff.mpr h] at ho
    cases ho

end

/-- Settles O35: a divisor of greater magnitude than A is the ordinary case. -/
theorem divWritesQuotientAndRemainder : Obligations.DivWritesQuotientAndRemainder := by
  unfold Obligations.DivWritesQuotientAndRemainder
  rintro f s r v hr rfl h
  exact exec_div_ordinary hr h

/-- Settles O36: the two draws are the words A and X become. -/
theorem divFaultSetsOverflowAndCompletes : Obligations.DivFaultSetsOverflowAndCompletes := by
  unfold Obligations.DivFaultSetsOverflowAndCompletes
  rintro f s r v hr rfl h
  exact ⟨_, _, exec_div_fault hr h⟩

/-! ### What the quotient and the remainder mean -/

/-- Division truncated toward zero divides the magnitudes and multiplies the signs (D12). -/
theorem signed_tdiv_signed (b c : Bool) (m k : Nat) : (signed b m).tdiv (signed c k) = signed (b ^^ c) (m / k) := by
  cases b <;> cases c <;> simp [signed]

/-- The remainder of that division is that of the magnitudes, with the sign of the dividend (D12). -/
theorem signed_tmod_signed (b c : Bool) (m k : Nat) : (signed b m).tmod (signed c k) = signed b (m % k) := by
  cases b <;> cases c <;> simp [signed, ← Int.ofNat_tmod]

section
variable {a v : Word} (x : Word)

/-- A quotient is negative exactly where it is not 0 and the signs differ (D11, D12). -/
theorem quotient_lt_zero_iff :
    (decodeDoubleword a x).tdiv (decodeWord v) < 0 ↔
      wordSign a ≠ wordSign v ∧ (decodeDoubleword a x).tdiv (decodeWord v) ≠ 0 := by
  rw [decodeDoubleword, decodeWord, signed_tdiv_signed, signed_lt_zero_iff, ne_eq, ne_eq, ne_eq, signed_eq_zero_iff,
    Bool.xor_iff_ne]

variable (h : wordMag a < wordMag v)
include h

/-- A dividend whose high word is below the divisor has a quotient that fits a Word (R174). -/
theorem natAbs_quotient_le : ((decodeDoubleword a x).tdiv (decodeWord v)).natAbs ≤ 2 ^ 30 - 1 := by
  have hx := wordMag_lt x
  have hdividend : wordMag a * 2 ^ 30 + wordMag x < wordMag v * 2 ^ 30 := by omega
  have hquotient := Nat.div_lt_of_lt_mul hdividend
  rw [decodeDoubleword, decodeWord, signed_tdiv_signed, natAbs_signed]
  omega

/-- The quotient in A is read back whole. -/
theorem wordMag_quotient :
    wordMag (encodeWord ((decodeDoubleword a x).tdiv (decodeWord v))) =
      ((decodeDoubleword a x).tdiv (decodeWord v)).natAbs := by
  have hfits := natAbs_quotient_le x h
  rw [wordMag_encodeWord, Nat.mod_eq_of_lt (by omega)]

/-- The remainder in X is smaller than the divisor (R174). -/
theorem wordMag_remainder_lt :
    wordMag (mkWord (wordSign a) ((decodeDoubleword a x).natAbs % (decodeWord v).natAbs)) < wordMag v := by
  have hmod := Nat.mod_lt (decodeDoubleword a x).natAbs (show 0 < wordMag v by omega)
  rw [wordMag_mkWord, natAbs_decodeWord]
  exact (Nat.mod_le _ _).trans_lt hmod

/-- The word written to X is the remainder of the truncated division: it has the sign of the dividend, which is that of A. -/
theorem decodeWord_remainder :
    decodeWord (mkWord (wordSign a) ((decodeDoubleword a x).natAbs % (decodeWord v).natAbs)) =
      (decodeDoubleword a x).tmod (decodeWord v) := by
  have hmod := Nat.mod_lt (wordMag a * 2 ^ 30 + wordMag x) (show 0 < wordMag v by omega)
  have hv := wordMag_lt v
  rw [decodeWord, wordSign_mkWord, wordMag_mkWord, natAbs_decodeWord, decodeDoubleword, natAbs_signed, decodeWord,
    signed_tmod_signed, Nat.mod_eq_of_lt (hmod.trans hv)]

end

/-- Settles O37, from the truncated division of signed magnitudes and the range of its quotient. -/
theorem divQuotientAndRemainderIdentity : Obligations.DivQuotientAndRemainderIdentity := by
  unfold Obligations.DivQuotientAndRemainderIdentity
  rintro f s t r v hr rfl h hexec
  obtain rfl := Host.Outcome.next.inj (hexec.symm.trans (exec_div_ordinary hr h))
  have hsign := quotient_lt_zero_iff (a := s.a) (v := operandWord f s r) s.x
  simp only [wordMag_quotient s.x h, wordSign_encodeWord, decide_eq_true_iff, decide_eq_false_iff_not, Int.natAbs_eq_zero,
    ne_eq, hsign]
  refine ⟨?identity, wordMag_remainder_lt s.x h, wordSign_mkWord _ _, And.left, fun h0 hne => ⟨hne, h0⟩,
    fun h0 hlt => hlt.2 h0⟩
  case identity =>
    rw [decodeWord_encodeWord_exact (natAbs_quotient_le s.x h), decodeWord_remainder s.x h, Int.tdiv_mul_add_tmod]

/-! ### Zero results -/

theorem encodeWord_zero : encodeWord 0 = 0 := rfl

theorem encodeDoubleword_zero : encodeDoubleword 0 = (0, 0) := rfl

/-- Settles O38: an exact result of 0 is encoded as +0 and overflows nothing. -/
theorem zeroResultsArePlusZero : Obligations.ZeroResultsArePlusZero := by
  unfold Obligations.ZeroResultsArePlusZero
  rintro f s r v hr rfl
  refine ⟨fun h => ?add, fun h => ?sub, fun h => ?mul⟩
  case add => rw [exec_add_of_readable hr, h, withAlu_aluAccumulate, encodeWord_zero]; simp
  case sub => rw [exec_sub_of_readable hr, h, withAlu_aluAccumulate, encodeWord_zero]; simp
  case mul => rw [exec_mul_of_readable hr, withAlu_aluMul, h, encodeDoubleword_zero]

end Sys2Proof.Machine

/-! ## What a step does, check by check -/

namespace Sys2Proof.Machine

/-! ### Before dispatch -/

section
variable {s : State}

theorem step_of_halted (h : s.halted = true) : step s = .fault .noStepHalted := by
  simp only [step, h, if_true, raise]

theorem step_of_fetch_above (hrun : s.halted = false) (hpc : 3999 < s.pc.toNat) :
    step s = .fault (.memoryOutOfBounds s.pc.toNat .fetch) := by
  have hfetch : fetch s = .error (.memoryOutOfBounds s.pc.toNat .fetch) := fetch_error.mpr ⟨hpc, rfl⟩
  simp only [step, hrun, hfetch, Bool.false_eq_true, if_false, raise]

end

/-- Settles O23: the halted bit is checked before anything else. -/
theorem haltedBlockTakesNoStep : Obligations.HaltedBlockTakesNoStep := by
  unfold Obligations.HaltedBlockTakesNoStep
  exact fun s => step_of_halted

/-- Settles O19: an `Ok` step at 3999 leaves the block running with pc at 4000, where the fetch faults. -/
theorem fetchAboveMemoryFaults : Obligations.FetchAboveMemoryFaults := by
  unfold Obligations.FetchAboveMemoryFaults
  refine ⟨fun s => step_of_fetch_above, fun s t hpc h => ?top⟩
  case top =>
    obtain ⟨hrun, -⟩ := step_next h
    obtain ⟨⟨-, -, -, hhalted, -⟩, -⟩ := step_frame h
    have hpc' : t.pc.toNat = 4000 := by rw [step_pc_toNat h, hpc]
    refine ⟨hpc', ?_⟩
    rw [step_of_fetch_above (hhalted.trans hrun) (by omega), hpc']
    rfl

/-! ### Dispatch -/

section
variable {s : State} {i : Instr} (h : AboutToExecute s i)
include h

theorem step_of_exec_next {t : State} (ht : exec i s = .next t) : step s = .next t.advancePc := by
  rw [step_of_aboutToExecute h, ht, commit]

theorem step_of_exec_fault {e : Fault} (he : exec i s = .fault e) : step s = .fault e := by
  rw [step_of_aboutToExecute h, he, commit, raise]

theorem step_of_exec_refused {r : Refusal} (hr : exec i s = .refused r) : step s = .refused r := by
  rw [step_of_aboutToExecute h, hr, commit]

end

/-- Settles O22: a step commits what the instruction answers. -/
theorem stepExecutesTheDecodedInstruction : Obligations.StepExecutesTheDecodedInstruction := by
  unfold Obligations.StepExecutesTheDecodedInstruction
  exact fun s i h => ⟨fun t => step_of_exec_next h, fun e => step_of_exec_fault h, fun r => step_of_exec_refused h⟩

/-! ### NOP -/

/-- NOP answers the state it found, whatever F is and wherever EA lies (R146). -/
theorem exec_nop_of_resolves {f : Fields} {s : State} (h : EaResolves f s) : exec (.nop f) s = .next s := by
  obtain ⟨-, -, -, hk⟩ := withEA_of_resolves h fun _ => .next s
  exact hk

/-- Settles O30: forming EA does not look at F. -/
theorem nopOnlyAdvancesPc : Obligations.NopOnlyAdvancesPc := by
  unfold Obligations.NopOnlyAdvancesPc
  exact fun f s hea => ⟨exec_nop_of_resolves hea, fun hi => step_of_exec_next hi (exec_nop_of_resolves hea),
    fun field => exec_nop_of_resolves (f := { f with field := field }) hea⟩

/-! ### The eight checks -/

/-- Every instruction forms EA first, so a fault of EA is the instruction's (R143; D8). -/
theorem exec_of_ea_error {i : Instr} {s : State} {e : Fault} (h : effectiveAddress i.fields s = .error e) :
    exec i s = .fault e := by
  cases i
  case add | sub | mul | div => exact withOperand_of_error (fetchOperand_of_ea_error h) _
  -- NOP and the extension points
  all_goals exact withEA_of_error h _

theorem exec_refused {i : Instr} {s : State} (hi : 5 ≤ i.opcode) (hea : EaResolves i.fields s) :
    exec i s = .refused (.notImplemented i.opcode) := by
  obtain ⟨hrefused, -⟩ := extensionPointsAreRefused i s hi
  exact hrefused hea

/-- An instruction with opcode 0 is NOP. -/
theorem exec_of_opcode_zero {i : Instr} {s : State} (hi : i.opcode = 0) (hea : EaResolves i.fields s) :
    exec i s = .next s := by
  cases i
  case nop f => exact exec_nop_of_resolves hea
  all_goals simp [Instr.opcode] at hi

section
variable {i : Instr} {s : State} (hlow : 1 ≤ i.opcode) (hhigh : i.opcode ≤ 4)
include hlow hhigh

/-- The instructions that read memory are ADD, SUB, MUL and DIV, which run one operation on the operand (R170). -/
theorem exec_eq_withOperand : ∃ k : Word → State, exec i s = withOperand i.fields s fun v => .next (k v) := by
  cases i
  case add | sub | mul | div => exact ⟨_, rfl⟩
  all_goals simp [Instr.opcode] at hlow hhigh

theorem exec_of_operand_error {e : Fault} (h : fetchOperand i.fields s = .error e) : exec i s = .fault e := by
  obtain ⟨k, hk⟩ := exec_eq_withOperand hlow hhigh (s := s)
  rw [hk, withOperand_of_error h]

theorem exec_of_readable {r : ByteRange} (h : OperandReadable i.fields s r) : ∃ t, exec i s = .next t := by
  obtain ⟨k, hk⟩ := exec_eq_withOperand hlow hhigh (s := s)
  exact ⟨k _, by rw [hk, withOperand_of_readable h]⟩

end

/-- A running block with pc in the memory is about to execute an instruction with the opcode and the fields of its word. -/
theorem exists_aboutToExecute {s : State} (hrun : s.halted = false) (hpc : s.pc.toNat ≤ 3999) :
    ∃ i, AboutToExecute s i ∧ i.opcode = opcodeOf (Memory.read s.mem s.pc.toNat) ∧
      i.fields = fieldsOf (Memory.read s.mem s.pc.toNat) := by
  obtain ⟨i, hi, hopcode, hfields⟩ := decode_ok (Memory.read s.mem s.pc.toNat)
  exact ⟨i, ⟨hrun, hpc, hi⟩, hopcode, hfields⟩

/-- Settles O25, one lemma on the instruction for each check after the fetch. -/
theorem checksInTheirOrder : Obligations.ChecksInTheirOrder := by
  unfold Obligations.ChecksInTheirOrder
  rintro s w f rfl rfl
  refine ⟨step_of_halted, fun hrun => ⟨step_of_fetch_above hrun, fun hpc => ?_⟩⟩
  obtain ⟨i, hi, hopcode, hfields⟩ := exists_aboutToExecute hrun hpc
  rw [← hopcode, ← hfields]
  refine ⟨fun hbad => ?badIndex, fun hindex => ⟨fun hsum => ?overflow, fun hfits =>
    ⟨fun h5 => ?refused, fun h0 => ?nop, fun h1 h4 => ⟨fun hout => ?outOfBounds, fun hge hle =>
      ⟨fun hnone => ?badField, fun hsome => ?completes⟩⟩⟩⟩⟩
  case badIndex => exact step_of_exec_fault hi (exec_of_ea_error (effectiveAddress_badIndex hbad))
  case overflow => exact step_of_exec_fault hi (exec_of_ea_error (effectiveAddress_overflow hindex hsum))
  case refused => exact step_of_exec_refused hi (exec_refused h5 ⟨hindex, hfits⟩)
  case nop => exact ⟨_, step_of_exec_next hi (exec_of_opcode_zero h0 ⟨hindex, hfits⟩)⟩
  case outOfBounds =>
    exact step_of_exec_fault hi (exec_of_operand_error h1 h4 (fetchOperand_outOfBounds ⟨hindex, hfits⟩ hout))
  case badField =>
    exact step_of_exec_fault hi (exec_of_operand_error h1 h4 (fetchOperand_badField ⟨hindex, hfits⟩ hge hle hnone))
  case completes =>
    obtain ⟨r, hr⟩ := Option.ne_none_iff_exists'.mp hsome
    obtain ⟨t, ht⟩ := exec_of_readable h1 h4 ⟨⟨hindex, hfits⟩, hge, hle, hr⟩
    exact ⟨_, step_of_exec_next hi ht⟩

/-! ### Runs to the top of memory -/

/-- Each `Ok` step brings pc nearer to 4000, where none is possible: by induction on the steps that are left. -/
theorem run_stops (n : Nat) {s : State} (h : 4000 ≤ s.pc.toNat + n) : ∃ t w, run (n + 1) s = .stopped t w := by
  induction n generalizing s with
  | zero =>
    cases hs : step s with
    | next u =>
      obtain ⟨-, hpc, -⟩ := step_next hs
      omega
    | fault e => exact ⟨_, _, run_succ_of_fault _ hs⟩
    | refused r => exact ⟨_, _, run_succ_of_refused _ hs⟩
  | succ n ih =>
    cases hs : step s with
    | next u =>
      rw [run_succ_of_next _ hs]
      exact ih (by rw [step_pc_toNat hs]; omega)
    | fault e => exact ⟨_, _, run_succ_of_fault _ hs⟩
    | refused r => exact ⟨_, _, run_succ_of_refused _ hs⟩

/-- Settles O28: whatever pc is, 4000 steps reach the top of memory. -/
theorem everyRunStopsWithin4001Steps : Obligations.EveryRunStopsWithin4001Steps := by
  unfold Obligations.EveryRunStopsWithin4001Steps
  exact fun s => run_stops 4000 (Nat.le_add_left _ _)

/-- The word is a NOP without index. -/
def UnindexedNop (w : Word) : Prop := opcodeOf w = 0 ∧ (fieldsOf w).index = 0

/-- An unindexed NOP always completes, for its EA is the base (R141, R146). -/
theorem step_of_unindexedNop {s : State} (hrun : s.halted = false) (hpc : s.pc.toNat ≤ 3999)
    (h : UnindexedNop (Memory.read s.mem s.pc.toNat)) : step s = .next s.advancePc := by
  obtain ⟨hzero, hindex⟩ := h
  obtain ⟨i, hi, hopcode, hfields⟩ := exists_aboutToExecute hrun hpc
  exact step_of_exec_next hi
    (exec_of_opcode_zero (hopcode.trans hzero) (eaResolves_of_unindexed (hfields ▸ hindex)))

/-- By induction on the number of words from pc to the top of memory. -/
theorem run_unindexedNops (n : Nat) {s : State} (hrun : s.halted = false) (hpc : s.pc.toNat + n = 4000)
    (hnops : ∀ k, s.pc.toNat ≤ k → k ≤ 3999 → UnindexedNop (Memory.read s.mem k)) :
    run n s = .spent (s.withPc 4000) := by
  induction n generalizing s with
  | zero =>
    have htop : s.pc = 4000 := BitVec.eq_of_toNat_eq hpc
    rw [run, ← htop]
    rfl
  | succ n ih =>
    have hstep := step_of_unindexedNop hrun (by omega) (hnops _ (Nat.le_refl _) (by omega))
    have hnext := step_pc_toNat hstep
    rw [run_succ_of_next n hstep]
    exact ih hrun (by omega) fun k hk => hnops k (by omega)

/-- Settles O29, by the induction along the NOPs. -/
theorem nopsRunToTheTopOfMemory : Obligations.NopsRunToTheTopOfMemory := by
  unfold Obligations.NopsRunToTheTopOfMemory
  intro s hrun hpc hnops
  have hspent := run_unindexedNops (4000 - s.pc.toNat) hrun (by omega) hnops
  exact ⟨⟨_, hspent⟩, hspent⟩

end Sys2Proof.Machine

/-! ## What instructions and steps do not read or write -/

namespace Sys2Proof.Machine

/-! ### Memory -/

theorem outsideAluAndControl_withMem (m : Memory) : OutsideAluAndControl (fun s => s.withMem m) :=
  ⟨fun _ => rfl, fun _ => rfl, fun _ => rfl, fun _ _ => rfl, fun _ => rfl, fun _ => rfl⟩

section
variable {s : State} {m : Memory}

theorem fetch_withMem (h : Memory.read m s.pc.toNat = Memory.read s.mem s.pc.toNat) : fetch (s.withMem m) = fetch s := by
  simp only [fetch, withMem_pc, withMem_mem, h]

theorem memoryGet_congr (al : FieldAlign) {m' : Memory} {a : Address} (field : Byte)
    (h : Memory.read m (decodeAddress a).toNat = Memory.read m' (decodeAddress a).toNat) :
    memoryGet al m a field = memoryGet al m' a field := by
  simp only [memoryGet, h]

/-- The operand read looks at one word, that at EA (R53). -/
theorem fetchOperand_withMem {f : Fields}
    (h : Memory.read m (eaNumber f s).toNat = Memory.read s.mem (eaNumber f s).toNat) :
    fetchOperand f (s.withMem m) = fetchOperand f s := by
  have hea' : effectiveAddress f (s.withMem m) = effectiveAddress f s := effectiveAddress_congr (withMem_index s m) f
  cases hea : effectiveAddress f s with
  | error e => rw [fetchOperand_of_ea_error hea, fetchOperand_of_ea_error (hea'.trans hea)]
  | ok ea =>
    obtain ⟨hvalue, -⟩ := effectiveAddress_value hea
    rw [fetchOperand_of_effectiveAddress hea, fetchOperand_of_effectiveAddress (hea'.trans hea)]
    exact memoryGet_congr _ _ (hvalue ▸ h)

end

/-- Settles O21: the fetch reads the word at pc, the operand read the word at EA, and nothing else reads memory. -/
theorem stepReadsAtMostTwoWords : Obligations.StepReadsAtMostTwoWords := by
  unfold Obligations.StepReadsAtMostTwoWords
  intro s m hpc hea
  refine step_onNext (outsideAluAndControl_withMem m) (fetch_withMem hpc)
    (fun _ _ => effectiveAddress_congr (withMem_index s m) _) fun w hw => ?operand
  case operand =>
    obtain ⟨-, rfl⟩ := fetch_ok.mp hw
    exact fetchOperand_withMem hea

/-- Settles O46: the word at pc is the encoding of the instruction decoded from it. -/
theorem instructionMayReadItsOwnWord : Obligations.InstructionMayReadItsOwnWord := by
  unfold Obligations.InstructionMayReadItsOwnWord
  rintro s i r ⟨-, -, hdecode⟩ - hown
  rw [operandWord, hown, Int.toNat_natCast, encode_of_decode hdecode]

/-! ### The jump register -/

theorem outsideAluAndControl_withJ (v : Address) : OutsideAluAndControl (fun s => s.withJ v) :=
  ⟨fun _ => rfl, fun _ => rfl, fun _ => rfl, fun _ _ => rfl, fun _ => rfl, fun _ => rfl⟩

/-- Settles O45: changing J is a change a step carries along, and J is read by its magnitude. -/
theorem jumpRegisterIsNeverUsed : Obligations.JumpRegisterIsNeverUsed := by
  unfold Obligations.JumpRegisterIsNeverUsed
  refine ⟨fun s v => ?step, fun s b m => addrMag_mkAddr b m⟩
  case step =>
    exact step_onNext (outsideAluAndControl_withJ v) rfl (fun _ _ => effectiveAddress_congr (withJ_index s v) _)
      fun _ _ => fetchOperand_congr (withJ_index s v) rfl rfl _

/-! ### X -/

theorem fetchOperand_withX (f : Fields) (s : State) (v : Word) : fetchOperand f (s.withX v) = fetchOperand f s :=
  fetchOperand_congr (withX_index s v) rfl rfl f

theorem withOperand_congr {f : Fields} {s t : State} {k k' : Word → Answer} (hop : fetchOperand f t = fetchOperand f s)
    (hk : ∀ v, k' v = k v) : withOperand f t k' = withOperand f s k := by
  simp only [withOperand, hop, hk]

/-- MUL overwrites X without reading it (R173). -/
theorem exec_mul_withX (f : Fields) (s : State) (v : Word) :
    exec (.mul f) (s.withX v) = exec (.mul f) s :=
  withOperand_congr (fetchOperand_withX f s v) fun _ => rfl

/-- Settles O42: the operand does not depend on X, ADD and SUB work beside it, and MUL overwrites it. -/
theorem xIsNotReadByAddSubMul : Obligations.XIsNotReadByAddSubMul := by
  unfold Obligations.XIsNotReadByAddSubMul
  exact fun f s v => ⟨withOperand_onNext (g := fun t => t.withX v) (fetchOperand_withX f s v) fun _ => rfl,
    withOperand_onNext (g := fun t => t.withX v) (fetchOperand_withX f s v) fun _ => rfl, exec_mul_withX f s v⟩

/-! ### The frame of each instruction -/

/-- Settles O43: the frame that all share, and what each instruction writes of A, X, OV and the draw count. -/
theorem frameOfEveryInstruction : Obligations.FrameOfEveryInstruction := by
  unfold Obligations.FrameOfEveryInstruction
  intro i s t h
  obtain ⟨hframe, -, hpc, -⟩ := exec_frame h
  refine ⟨hframe, hpc, ?_⟩
  rcases exec_next h with ⟨f, rfl, -, rfl⟩ | ⟨f, r, rfl, -, rfl⟩ | ⟨f, r, rfl, -, rfl⟩ | ⟨f, r, rfl, -, rfl⟩ |
    ⟨f, r, rfl, -, rfl⟩
  · simp
  · simp [aluAdd, aluAccumulate]
  · simp [aluSub, aluAccumulate]
  · simp [aluMul]
  · rcases divideState_cases (operandWord f s r) s with ⟨-, hd⟩ | ⟨-, hd⟩ <;> simp [hd]

end Sys2Proof.Machine

/-! ## Reset, host and a placed word -/

namespace Sys2Proof.Machine

/-- Settles O47: the reset state and the memory with no cell listed. -/
theorem resetValues : Obligations.ResetValues := by
  unfold Obligations.ResetValues
  exact fun s => ⟨rfl, rfl, fun r => by cases r <;> rfl, rfl, rfl, rfl, rfl, rfl, fun n => read_nil n, rfl, rfl, rfl⟩

/-! ### The host -/

theorem hostRead_hostWrite_same {s : State} (hwf : Memory.wf s.mem = true) (e : Element) (v : e.Value) :
    hostRead (hostWrite s e v) e = v := by
  cases e
  case index r => exact withIndex_same s r v
  case word k => exact (read_write k.val hwf).trans (if_pos rfl)
  all_goals rfl

theorem hostRead_hostWrite_other {s : State} (hwf : Memory.wf s.mem = true) {e e' : Element} (v : e.Value)
    (h : e' ≠ e) :
    hostRead (hostWrite s e v) e' = hostRead s e' := by
  cases e
  case index r =>
    cases e'
    case index q => exact withIndex_other s r q v fun hq => h (congrArg Element.index hq)
    all_goals simp [hostRead, hostWrite]
  case word k =>
    cases e'
    case word l => exact (read_write l.val hwf).trans (if_neg fun hl => h (congrArg Element.word (Fin.ext hl)))
    all_goals rfl
  all_goals cases e' <;> simp_all [hostRead, hostWrite]

theorem hostWrite_fieldAlign (s : State) (e : Element) (v : e.Value) : (hostWrite s e v).fieldAlign = s.fieldAlign := by
  cases e
  case index r => exact withIndex_fieldAlign s r v
  all_goals rfl

theorem hostWrite_draws (s : State) (e : Element) (v : e.Value) : (hostWrite s e v).draws = s.draws := by
  cases e
  case index r => exact withIndex_draws s r v
  all_goals rfl

/-- Settles O48, element by element, a word by reading after a write in a canonical memory. -/
theorem hostReadsBackWhatItWrote : Obligations.HostReadsBackWhatItWrote := by
  unfold Obligations.HostReadsBackWhatItWrote
  exact fun s e v hwf => ⟨hostRead_hostWrite_same hwf e v, fun e' => hostRead_hostWrite_other hwf v,
    hostWrite_fieldAlign s e v, hostWrite_draws s e v⟩

/-! ### A placed word -/

theorem decode_of_decodeTableWord {nbits w : Nat} {i : Instr} (h : decodeTableWord nbits w = some i) :
    decode (BitVec.ofNat 31 (w % 2 ^ nbits)) = .ok i := by
  unfold decodeTableWord at h
  split at h
  · rename_i j hj
    obtain rfl := Option.some.inj h
    unfold decodeCarrier at hj
    split at hj
    · exact hj
    · cases hj
  · cases h

/-- A word is placed inside the memory: pc moves to 0 if it is above 3999. -/
theorem withFetchWord_pc_le (s : State) (nbits w : Nat) : (s.withFetchWord nbits w).pc.toNat ≤ 3999 := by
  simp only [State.withFetchWord, withMem_pc, withHalted_pc, withPc_pc]
  split
  · decide
  · omega

/-- The word at pc after the placing is the placed word. -/
theorem read_withFetchWord {s : State} (hwf : Memory.wf s.mem = true) (nbits w : Nat) :
    Memory.read (s.withFetchWord nbits w).mem (s.withFetchWord nbits w).pc.toNat = BitVec.ofNat 31 (w % 2 ^ nbits) :=
  (read_write _ hwf).trans (if_pos rfl)

/-- Settles O51: the block runs, pc is in the memory, and the word there is the placed one. -/
theorem placedWordRunsNext : Obligations.PlacedWordRunsNext := by
  unfold Obligations.PlacedWordRunsNext
  intro s nbits w i hwf h
  exact ⟨rfl, withFetchWord_pc_le s nbits w, by rw [read_withFetchWord hwf, decode_of_decodeTableWord h]⟩

end Sys2Proof.Machine
